-- ==== Sys2Proof/Word.lean ====
section
/-! DEFINITION. The words of PHACC: the operand bus, the opcode, the 132-bit command, the synthesis
width N, and an exact rational written as a numerator over a denominator. -/

namespace Sys2Proof

/-- A 64-bit operand bus (`cmd_a`, `cmd_b`) or the response data bus: `OP_W` = 64 (spec/00_scope.md R6). -/
abbrev Bus := BitVec 64

/-- The 4-bit opcode field `cmd_op`: `CMD_OP_W` = 4 (spec/00_scope.md R6). -/
abbrev Opcode := BitVec 4

/-- A whole command as one word `{op, A, B}`: op in bits 131:128, A in 127:64, B in 63:0
(spec/30_encoding.md R42). -/
abbrev CmdWord := BitVec 132

/-- The synthesis parameter `PHASE_W` = N with 1 ≤ N ≤ 64 (spec/00_scope.md R5, R6). -/
structure Width where
  n : Nat
  pos : 1 ≤ n
  le : n ≤ 64
deriving DecidableEq, Repr

/-- The exact rational `num / den` (spec/00_scope.md R9: unbounded integers and exact rationals). -/
structure Frac where
  num : Int
  den : Nat
deriving DecidableEq, Repr

end Sys2Proof
end

