-- ==== Sys2Proof/Machine/Flags.lean ====
section
/-! DEFINITION. The computations of RSP_FLAG (spec/10_state.md R19): CMP's three comparison bits and ISSTART's
cycle start. Every other command's flag is 0. -/

namespace Sys2Proof.Machine

/-- A plain unsigned comparison of two phase values, not a circular one (spec/40_phase_arith.md R55). -/
def phaseLt {N : Nat} (a b : BitVec N) : Bool := decide (a.toNat < b.toNat)

/-- CMP's result `4·gt + 2·eq + lt`: R[0] = lt, R[1] = eq, R[2] = gt, R[63:3] = 0 (R55). -/
def cmpResult {N : Nat} (a b : BitVec N) : Bus :=
  BitVec.ofNat 64 (4 * (phaseLt b a).toNat + 2 * (decide (a = b)).toNat + (phaseLt a b).toNat)

/-- ISSTART's `F <- (PHASE < r)`, unsigned (spec/42_accumulator.md R66). -/
def cycleStart {N : Nat} (phase rate : BitVec N) : Bool := phaseLt phase rate

/-- A flag as data: `zext_64(F)` (R66). -/
def flagData (f : Bool) : Bus := BitVec.ofNat 64 f.toNat

end Sys2Proof.Machine
end

