-- ==== Sys2Proof/Syntax.lean ====
section
/-! DEFINITION. The commands of PHACC, one constructor per row of spec/opcode_table.json. -/

namespace Sys2Proof

/-- A command. Every one has the format CMD (spec/30_encoding.md R42): its opcode, here the constructor, and
both operand buses. A bus that the command does not read is kept, so that no bit of a command is dropped; that
it has no effect is a statement about the machine (spec/30_encoding.md R43). -/
inductive Instr where
  | reserved0 (a b : Bus)
  | int (a b : Bus)
  | ratio (a b : Bus)
  | add (a b : Bus)
  | sub (a b : Bus)
  | cmp (a b : Bus)
  | freq (a b : Bus)
  | pers (a b : Bus)
  | pern (a b : Bus)
  | rad (a b : Bus)
  | init (a b : Bus)
  | next (a b : Bus)
  | get (a b : Bus)
  | isstart (a b : Bus)
  | reservedE (a b : Bus)
  | reservedF (a b : Bus)
deriving DecidableEq, Repr

end Sys2Proof
end

