-- ==== Sys2Proof/WellFormed.lean ====
section
/-! DEFINITION. The form an assembler writes a command in. spec/30_encoding.md R43: a field marked "ign" is
not read, any value of it is accepted, and an assembler writes 0 there. So a command is WELL-FORMED when its
ignored fields are 0. The machine runs every command, well-formed or not (R46, R50): no meaning and no step asks
for well-formedness. -/

namespace Sys2Proof

/-- `v[k-1:0]` with zeros above it: the part of an operand bus that a k-bit field reads. -/
def keepLow (k : Nat) (v : Bus) : Bus := (v.setWidth k).setWidth 64

/-- A k-bit operand field leaves the bits above it 0 (R43 `A[63:N]` ign, `B[63:32]` ign). -/
def upperZero (k : Nat) (v : Bus) : Bool := decide (v.toNat < 2 ^ k)

/-- A bus that the command does not read is 0 (R43 "ign"). -/
def unusedZero (v : Bus) : Bool := v == 0#64

/-- The command as an assembler writes it: every field that R43's table marks "ign" is 0. -/
def Instr.canonical (N : Nat) : Instr → Instr
  | .reserved0 _ _ => .reserved0 0 0
  | .int a _ => .int (keepLow N a) 0
  | .ratio a _ => .ratio a 0
  | .add a b => .add (keepLow N a) (keepLow N b)
  | .sub a b => .sub (keepLow N a) (keepLow N b)
  | .cmp a b => .cmp (keepLow N a) (keepLow N b)
  | .freq a b => .freq a (keepLow 32 b)
  | .pers a b => .pers a (keepLow 32 b)
  | .pern a _ => .pern a 0
  | .rad a _ => .rad a 0
  | .init _ _ => .init 0 0
  | .next _ _ => .next 0 0
  | .get _ _ => .get 0 0
  | .isstart _ _ => .isstart 0 0
  | .reservedE _ _ => .reservedE 0 0
  | .reservedF _ _ => .reservedF 0 0

/-- Every field that R43's table marks "ign" is 0. -/
def Instr.wellFormed (N : Nat) : Instr → Bool
  | .reserved0 a b => unusedZero a && unusedZero b
  | .int a b => upperZero N a && unusedZero b
  | .ratio _ b => unusedZero b
  | .add a b => upperZero N a && upperZero N b
  | .sub a b => upperZero N a && upperZero N b
  | .cmp a b => upperZero N a && upperZero N b
  | .freq _ b => upperZero 32 b
  | .pers _ b => upperZero 32 b
  | .pern _ b => unusedZero b
  | .rad _ b => unusedZero b
  | .init a b => unusedZero a && unusedZero b
  | .next a b => unusedZero a && unusedZero b
  | .get a b => unusedZero a && unusedZero b
  | .isstart a b => unusedZero a && unusedZero b
  | .reservedE a b => unusedZero a && unusedZero b
  | .reservedF a b => unusedZero a && unusedZero b

end Sys2Proof
end

