-- ==== Sys2Proof/Decode.lean ====
section
/-! DEFINITION. The decoder of spec/30_encoding.md R42 to R47 and R50, and after it the encoder. -/

namespace Sys2Proof

/-- The opcode map, by the "bits" column of R44 (op[3], op[2], op[1], op[0]); reserved rows by R45. `op` alone
selects the command, and every one of the 16 values is a command or reserved, so decoding is total (R46, R50). -/
def decode (op : Opcode) (a b : Bus) : Instr :=
  match op.getLsbD 3, op.getLsbD 2, op.getLsbD 1, op.getLsbD 0 with
  | false, false, false, false => .reserved0 a b
  | false, false, false, true => .int a b
  | false, false, true, false => .ratio a b
  | false, false, true, true => .add a b
  | false, true, false, false => .sub a b
  | false, true, false, true => .cmp a b
  | false, true, true, false => .freq a b
  | false, true, true, true => .pers a b
  | true, false, false, false => .pern a b
  | true, false, false, true => .rad a b
  | true, false, true, false => .init a b
  | true, false, true, true => .next a b
  | true, true, false, false => .get a b
  | true, true, false, true => .isstart a b
  | true, true, true, false => .reservedE a b
  | true, true, true, true => .reservedF a b

/-- op = bits 131:128 of a command word (R42). -/
def CmdWord.op (w : CmdWord) : Opcode := w.extractLsb' 128 4

/-- A = bits 127:64 of a command word (R42). -/
def CmdWord.a (w : CmdWord) : Bus := w.extractLsb' 64 64

/-- B = bits 63:0 of a command word (R42). -/
def CmdWord.b (w : CmdWord) : Bus := w.extractLsb' 0 64

/-- The command of a 132-bit command word (R42). -/
def decodeWord (w : CmdWord) : Instr := decode w.op w.a w.b

/-- Why a number is no command. -/
inductive DecodeError where
  /-- It has a bit above bit 131, so it is not the number of any command word (R42). -/
  | wordTooWide
deriving DecidableEq, Repr

/-- A number read as a command word: refused by name where it does not fit in 132 bits. -/
def decodeNat (w : Nat) : Except DecodeError Instr :=
  if w < 2 ^ 132 then .ok (decodeWord (BitVec.ofNat 132 w)) else .error .wordTooWide

/-- The host's question: the command of a table word of `nbits` bits, the bits above them 0. The table numbers the
132 bits of a command as R42 does, and no byte order arises (spec/20_memory.md R32). -/
def decodeTableWord (nbits w : Nat) : Option Instr :=
  (decodeNat (w % 2 ^ nbits)).toOption

/-! ## The encoder -/

/-- The "op" column of R44 and R45. -/
def Instr.opcode : Instr → Opcode
  | .reserved0 _ _ => 0x0#4
  | .int _ _ => 0x1#4
  | .ratio _ _ => 0x2#4
  | .add _ _ => 0x3#4
  | .sub _ _ => 0x4#4
  | .cmp _ _ => 0x5#4
  | .freq _ _ => 0x6#4
  | .pers _ _ => 0x7#4
  | .pern _ _ => 0x8#4
  | .rad _ _ => 0x9#4
  | .init _ _ => 0xA#4
  | .next _ _ => 0xB#4
  | .get _ _ => 0xC#4
  | .isstart _ _ => 0xD#4
  | .reservedE _ _ => 0xE#4
  | .reservedF _ _ => 0xF#4

/-- Operand A of a command. -/
def Instr.opA : Instr → Bus
  | .reserved0 a _ | .int a _ | .ratio a _ | .add a _ | .sub a _ | .cmp a _ | .freq a _ | .pers a _
  | .pern a _ | .rad a _ | .init a _ | .next a _ | .get a _ | .isstart a _ | .reservedE a _ | .reservedF a _ => a

/-- Operand B of a command. -/
def Instr.opB : Instr → Bus
  | .reserved0 _ b | .int _ b | .ratio _ b | .add _ b | .sub _ b | .cmp _ b | .freq _ b | .pers _ b
  | .pern _ b | .rad _ b | .init _ b | .next _ b | .get _ b | .isstart _ b | .reservedE _ b | .reservedF _ b => b

/-- The command word `{op, A, B}` (R42). -/
def encode (i : Instr) : CmdWord := i.opcode ++ i.opA ++ i.opB

end Sys2Proof
end

