-- ==== Sys2Proof/Machine/Rounding.lean ====
section
/-! DEFINITION. The rounding and the phase encoding of spec/00_scope.md R10 and R11: once in the spec's own words
over the rationals (`rnd`, `enc`), and once over integers, in the form R10 gives for a fraction (`rndDiv`, `encFrac`),
which the meanings use. -/

namespace Sys2Proof.Machine

/-- R10: `rnd(q) = floor(q + 1/2)`, to nearest with ties toward +infinity. -/
def rnd (q : ℚ) : Int := ⌊q + 1 / 2⌋

/-- R11: `enc(x) = rnd(x · 2^N) mod 2^N`, as an N-bit phase value. -/
def enc (N : Nat) (x : ℚ) : BitVec N := BitVec.ofInt N (rnd (x * 2 ^ N))

/-- R10 for an integer n over a positive integer d: `floor((2n + d) / (2d))`. -/
def rndDiv (n : Int) (d : Nat) : Int := (2 * n + d) / (2 * d)

/-- `enc` of the exact rational x: `rnd(x.num · 2^N / x.den) mod 2^N` (R11). -/
def encFrac (N : Nat) (x : Frac) : BitVec N := BitVec.ofInt N (rndDiv (x.num * 2 ^ N) x.den)

/-- 2^k, written as a shift so that Lean evaluates it on numerals however large k is. -/
def pow2 (k : Nat) : Nat := 1 <<< k

end Sys2Proof.Machine
end

