-- ==== Sys2Proof/Config.lean ====
section
/-! DEFINITION. What one PHACC fixes when it is built (the default width) and the free values: the
reading of a policy port that is not settled at an invoking edge. -/

namespace Sys2Proof

/-- The default of `PHASE_W` (spec/00_scope.md R5). It is only the width of `State.reset`: every definition
and every statement of the model holds for any width that a state carries (DESIGN CHOICE, log entry 1). -/
def Config.defaultWidth : Width := ⟨32, by decide, by decide⟩

/-- FREE VALUE: what PHACC reads from `freq_rate` at its k-th unsettled invocation of the frequency policy
(spec/70_reset_and_hazards.md R83, spec/93_implementation_defined.md S3: an arbitrary N-bit value). A port of
N ≤ 64 bits takes the low N bits. No body: nothing can be proved of a particular value. The value is a function of the draw counter alone, so two
instances, or two runs, whose counters are equal read the same value, where R83 and S3 say nothing across instances
(DESIGN CHOICE, log entry 5). -/
opaque Config.unsettledRate : Nat → BitVec 64

/-- FREE VALUE: the same for `shift_off`, drawn by its own counter; equal across instances at equal counters, as there
(DESIGN CHOICE, log entry 5). -/
opaque Config.unsettledOffset : Nat → BitVec 64

end Sys2Proof
end

