-- ==== Sys2Proof/Machine/State.lean ====
section
/-! DEFINITION. The state of one PHACC instance (spec/10_state.md R15, R21, R22, R28, R30), as plain data. -/

namespace Sys2Proof.Machine

/-- What stands on a policy port (`freq_rate`, `shift_off`) just before a rising edge (spec/10_state.md R22, R23). -/
inductive PortValue (N : Nat) where
  /-- A stable N-bit value, as the contract of R23 asks: any N-bit value is legal. -/
  | settled (v : BitVec N)
  /-- The port changes or is not settled at the edge: the contract of R23 is broken, and a reading of it draws an
  arbitrary N-bit value (spec/70_reset_and_hazards.md R83, spec/93_implementation_defined.md S3). -/
  | unsettled
deriving DecidableEq, Repr

/-- The input pins of PHACC just before one rising edge of `clk` (spec/10_state.md R20, R22). -/
structure Pins (N : Nat) where
  /-- `rst`: synchronous reset, active high -/
  rst : Bool
  /-- `cmd_valid`: a command is presented -/
  cmdValid : Bool
  /-- `cmd_op` -/
  cmdOp : Opcode
  /-- `cmd_a` -/
  cmdA : Bus
  /-- `cmd_b` -/
  cmdB : Bus
  /-- `freq_rate` -/
  freqRate : PortValue N
  /-- `shift_off` -/
  shiftOff : PortValue N
deriving DecidableEq, Repr

/-- A cycle in which the host presents nothing: no reset, no command, 0 on every bus (DESIGN CHOICE, log entry 3). -/
def Pins.idle (N : Nat) : Pins N :=
  { rst := false, cmdValid := false, cmdOp := 0, cmdA := 0, cmdB := 0,
    freqRate := .settled 0, shiftOff := .settled 0 }

/-- One PHACC of phase width N: the five registers of spec/10_state.md R30, the two take strobes of the last edge
(R22), the inputs of the coming edges (spec/70_reset_and_hazards.md R87), and the counters of the free values. -/
structure Phacc (N : Nat) where
  /-- PHASE (R15) -/
  phase : BitVec N
  /-- RSP_VALID (R21) -/
  rspValid : Bool
  /-- RSP_DATA (R21) -/
  rspData : Bus
  /-- RSP_FLAG (R19, R21) -/
  rspFlag : Bool
  /-- RSP_ERR (R21) -/
  rspErr : Bool
  /-- The value `freq_take` had in the cycle that the last edge ended (R22): the frequency policy was invoked
  (DEDUCED, log entry 4). -/
  freqTaken : Bool
  /-- The value `shift_take` had in the cycle that the last edge ended (R22): the shift policy was invoked
  (DEDUCED, log entry 4). -/
  shiftTaken : Bool
  /-- The input pins at the coming rising edges, the next edge first (R87: a run is a sequence of clock edges with
  their inputs). Past the list's end the host presents nothing (`Pins.idle`; DESIGN CHOICE, log entry 3). -/
  inputs : List (Pins N)
  /-- MODEL'S OWN: how many free values `freq_rate` has given so far (DESIGN CHOICE, log entry 5). -/
  rateDraws : Nat
  /-- MODEL'S OWN: how many free values `shift_off` has given so far (DESIGN CHOICE, log entry 5). -/
  offsetDraws : Nat
deriving DecidableEq, Repr

/-- The machine: the width it was built with (spec/00_scope.md R5, a parameter that no edge changes) and the block. -/
structure State where
  width : Width
  chip : Phacc width.n
deriving DecidableEq, Repr

/-- Why the machine could stop. PHACC raises no exception and takes no trap, and no command can fault, stall or hang
(spec/60_exceptions.md R68), so there is no reason: the type has no constructor. A response with RSP_ERR = 1 is a next
state; that it makes the run a faulted one is `Safety.faultedRun` (DEDUCED, log entry 6). -/
inductive Fault where
deriving DecidableEq, Repr

/-- Why the model could give no meaning. -/
inductive Refusal where
  /-- Raised by an arm of `exec` whose command has no meaning yet; safe. No arm raises it: all 16 opcodes have one. -/
  | notModelled (mnemonic : String)
deriving DecidableEq, Repr

/-- What a command or an edge answers. -/
abbrev Result := Host.Outcome State Fault Refusal

/-- PHACC right after reset: every register of spec/10_state.md R28 is 0, no strobe was asserted, and no input is
placed (log entries 3, 4 and 5 for what is not a register of R28). -/
def Phacc.afterReset (N : Nat) : Phacc N :=
  { phase := 0, rspValid := false, rspData := 0, rspFlag := false, rspErr := false,
    freqTaken := false, shiftTaken := false, inputs := [], rateDraws := 0, offsetDraws := 0 }

/-- The machine right after reset, at the default width (spec/10_state.md R28, spec/70_reset_and_hazards.md R78). -/
def State.reset : State := { width := Config.defaultWidth, chip := Phacc.afterReset _ }

end Sys2Proof.Machine
end

