-- ==== Sys2Proof/Machine/Ops.lean ====
section
/-! DEFINITION. The shared operations: the ports, the responses, the error response (PHACC's only error signal: it has
no exception to take, spec/60_exceptions.md R68), the policy readings, and what an edge does. -/

namespace Sys2Proof.Machine

/-! ## The input pins and the combinational outputs -/

/-- The pins just before the coming edge; idle where no input is placed (log entry 3). -/
def Phacc.pins {N : Nat} (c : Phacc N) : Pins N := c.inputs.headD (Pins.idle N)

/-- `cmd_ready = ~rst` (spec/10_state.md R20). -/
def Phacc.cmdReady {N : Nat} (c : Phacc N) : Bool := !c.pins.rst

/-- `accept = ~rst & cmd_valid` (R22). -/
def Phacc.accept {N : Nat} (c : Phacc N) : Bool := !c.pins.rst && c.pins.cmdValid

/-- `freq_take = accept & (cmd_op == NEXT | cmd_op == ISSTART)` (R22). -/
def Phacc.freqTake {N : Nat} (c : Phacc N) : Bool :=
  c.accept && (c.pins.cmdOp == 0xB#4 || c.pins.cmdOp == 0xD#4)

/-- `shift_take = accept & (cmd_op == NEXT | cmd_op == GET)` (R22). -/
def Phacc.shiftTake {N : Nat} (c : Phacc N) : Bool :=
  c.accept && (c.pins.cmdOp == 0xB#4 || c.pins.cmdOp == 0xC#4)

/-- The command presented on the command port: sampled at the accepting edge, decoded by `op` alone (R20, R50). -/
def Phacc.presented {N : Nat} (c : Phacc N) : Instr := decode c.pins.cmdOp c.pins.cmdA c.pins.cmdB

/-! ## The policy ports (spec/10_state.md R22, spec/00_scope.md R13) -/

/-- A reading of a port: its settled value, or the free value where it is unsettled (R83, S3). -/
def PortValue.read {N : Nat} (p : PortValue N) (free : BitVec 64) : BitVec N :=
  match p with
  | .settled v => v
  | .unsettled => free.setWidth N

/-- How many free values a reading of the port draws. -/
def PortValue.draws {N : Nat} (p : PortValue N) : Nat :=
  match p with
  | .settled _ => 0
  | .unsettled => 1

/-- The value that an invocation of the frequency policy at the coming edge returns; where the port is unsettled, the free
value of this block's draw counter, which another instance at an equal counter reads too (DESIGN CHOICE, log entry 5). -/
def Phacc.rate {N : Nat} (c : Phacc N) : BitVec N := c.pins.freqRate.read (Config.unsettledRate c.rateDraws)

/-- The value that an invocation of the shift policy at the coming edge returns; where the port is unsettled, the free
value of this block's draw counter, which another instance at an equal counter reads too (DESIGN CHOICE, log entry 5). -/
def Phacc.offset {N : Nat} (c : Phacc N) : BitVec N := c.pins.shiftOff.read (Config.unsettledOffset c.offsetDraws)

/-- Reading `freq_rate` asserts its take strobe (R13) and uses up a free value where the port is unsettled. -/
def Phacc.takeRate {N : Nat} (c : Phacc N) : Phacc N :=
  { c with freqTaken := true, rateDraws := c.rateDraws + c.pins.freqRate.draws }

/-- Reading `shift_off` asserts its take strobe (R13) and uses up a free value where the port is unsettled. -/
def Phacc.takeOffset {N : Nat} (c : Phacc N) : Phacc N :=
  { c with shiftTaken := true, offsetDraws := c.offsetDraws + c.pins.shiftOff.draws }

/-! ## PHASE and the responses -/

/-- `PHASE <- v` (R13). -/
def Phacc.setPhase {N : Nat} (c : Phacc N) (v : BitVec N) : Phacc N := { c with phase := v }

/-- `respond(R, F)`: data R, flag F, error 0, valid 1 (R13, spec/10_state.md R21). -/
def Phacc.respond {N : Nat} (c : Phacc N) (data : Bus) (flag : Bool) : Phacc N :=
  { c with rspValid := true, rspData := data, rspFlag := flag, rspErr := false }

/-- `respond(R, 0)` for a phase value R, zero-extended to 64 bits (R13, R21). -/
def Phacc.respondPhase {N : Nat} (c : Phacc N) (r : BitVec N) : Phacc N := c.respond (r.setWidth 64) false

/-- `respond_err()`: data 0, flag 0, error 1, valid 1, and nothing else changes (R13, spec/60_exceptions.md R69). -/
def Phacc.respondErr {N : Nat} (c : Phacc N) : Phacc N :=
  { c with rspValid := true, rspData := 0, rspFlag := false, rspErr := true }

/-- The response of a command that encodes x cycles: `respond(enc(x), 0)`, or `respond_err()` where the operands are
invalid and there is no x (spec/40_phase_arith.md R52, spec/41_conversions.md R57 to R60). -/
def Phacc.respondCycles {N : Nat} (c : Phacc N) (x : Option Frac) : Phacc N :=
  match x with
  | some q => c.respondPhase (encFrac N q)
  | none => c.respondErr

/-- A command completes at its own edge, leaving this block (spec/60_exceptions.md R68). -/
def State.complete (s : State) (c : Phacc s.width.n) : Result := .next { s with chip := c }

/-! ## What an edge does around the command (spec/70_reset_and_hazards.md R77) -/

/-- A cycle begins with neither strobe asserted: the readings of its command assert them. -/
def Phacc.beginEdge {N : Nat} (c : Phacc N) : Phacc N := { c with freqTaken := false, shiftTaken := false }

/-- The edge has passed: the pins of the next edge come to the front. -/
def Phacc.endEdge {N : Nat} (c : Phacc N) : Phacc N := { c with inputs := c.inputs.tail }

/-- Reset: PHASE and the four response registers become 0 (R78, R28). -/
def Phacc.resetRegs {N : Nat} (c : Phacc N) : Phacc N :=
  { c with phase := 0, rspValid := false, rspData := 0, rspFlag := false, rspErr := false }

/-- Idle: RSP_VALID becomes 0, everything else is unchanged (R77, R21). -/
def Phacc.idleRegs {N : Nat} (c : Phacc N) : Phacc N := { c with rspValid := false }

/-- The edge around what the accepted command answered: its next state's inputs move on. -/
def Result.endEdge (r : Result) : Result :=
  match r with
  | .next t => .next { t with chip := t.chip.endEdge }
  | .fault f => .fault f
  | .refused q => .refused q

/-- Place a command on the command port of the coming edge, not in reset; the policy ports stay as they are. -/
def Phacc.present {N : Nat} (c : Phacc N) (w : CmdWord) : Phacc N :=
  { c with inputs :=
      { c.pins with rst := false, cmdValid := true, cmdOp := w.op, cmdA := w.a, cmdB := w.b } :: c.inputs.tail }

end Sys2Proof.Machine
end

