-- ==== Sys2Proof/Machine/Accumulator.lean ====
section
/-! DEFINITION. The meanings of INIT, NEXT, GET and ISSTART (spec/42_accumulator.md). -/

namespace Sys2Proof.Machine

/-- R63: `PHASE <- 0; respond(0, 0)`; neither policy is invoked. -/
def execInit (_a _b : Bus) (s : State) : Result :=
  s.complete ((s.chip.setPhase 0).respond 0 false)

/-- R64: PHASE advances by the rate, and the response is the offset added to the phase BEFORE the advance. Both
policies are read at the same edge (spec/20_memory.md R41). -/
def execNext (_a _b : Bus) (s : State) : Result :=
  let prev := s.chip.phase
  let r := s.chip.rate
  let o := s.chip.offset
  s.complete ((s.chip.takeRate.takeOffset.setPhase (prev + r)).respondPhase (o + prev))

/-- R65: `respond((s + PHASE) mod 2^N, 0)`, PHASE unchanged; only the shift policy is invoked. -/
def execGet (_a _b : Bus) (s : State) : Result :=
  s.complete (s.chip.takeOffset.respondPhase (s.chip.offset + s.chip.phase))

/-- R66: `F <- (PHASE < r); respond(F, F)`, PHASE unchanged; only the frequency policy is invoked. -/
def execIsstart (_a _b : Bus) (s : State) : Result :=
  let f := cycleStart s.chip.phase s.chip.rate
  s.complete (s.chip.takeRate.respond (flagData f) f)

end Sys2Proof.Machine
end

