-- ==== Sys2Proof/Machine/Operands.lean ====
section
/-! DEFINITION. The operand forms of spec/30_encoding.md R43: a phase value, a sample rate, a binary64 ratio, and the
fixed-point formats, each read from the operand buses. The number of cycles x that a conversion encodes is a `Frac`;
`none` stands for an invalid operand of spec/60_exceptions.md R69. -/

namespace Sys2Proof.Machine

/-- `v[N-1:0]`, a phase value; the bits above are ignored (R43). -/
def phaseOperand (N : Nat) (v : Bus) : BitVec N := v.setWidth N

/-- `sr = u(B[31:0])`; `B[63:32]` is ignored (R43). -/
def sampleRate (b : Bus) : Nat := (b.extractLsb' 0 32).toNat

/-! ## binary64 (spec/40_phase_arith.md R52, spec/93_implementation_defined.md G1) -/

/-- s = A[63] -/
def b64Sign (a : Bus) : Bool := a.getLsbD 63

/-- e = u(A[62:52]) -/
def b64Exponent (a : Bus) : Nat := (a.extractLsb' 52 11).toNat

/-- f = u(A[51:0]) -/
def b64Fraction (a : Bus) : Nat := (a.extractLsb' 0 52).toNat

/-- |v| of a finite binary64: `f · 2^(-1074)` where e = 0, else `(2^52 + f) · 2^(e - 1075)` (R52). -/
def b64Magnitude (a : Bus) : Frac :=
  let e := b64Exponent a
  let f := b64Fraction a
  if e = 0 then ⟨f, pow2 1074⟩
  else if e < 1075 then ⟨2 ^ 52 + f, pow2 (1075 - e)⟩
  else ⟨(2 ^ 52 + f) * pow2 (e - 1075), 1⟩

/-- RATIO: the exact value v of the binary64 number in A; none for ±infinity and NaN, e = 2047 (R52). -/
def ratioCycles (a : Bus) : Option Frac :=
  if b64Exponent a = 2047 then none
  else
    let m := b64Magnitude a
    some ⟨if b64Sign a then -m.num else m.num, m.den⟩

/-! ## The conversions (spec/41_conversions.md) -/

/-- FREQ: `x = (u(A) / 2^32) / sr`, A in UQ32.32 Hz; none where sr = 0 (R57). -/
def freqCycles (a b : Bus) : Option Frac :=
  if sampleRate b = 0 then none else some ⟨a.toNat, 2 ^ 32 * sampleRate b⟩

/-- PERS: `x = 1 / (sr · (u(A) / 2^48))`, A in UQ16.48 s; none where sr = 0 or A = 0 (R58). -/
def persCycles (a b : Bus) : Option Frac :=
  if sampleRate b = 0 ∨ a.toNat = 0 then none else some ⟨2 ^ 48, sampleRate b * a.toNat⟩

/-- PERN: `x = 1 / (u(A) / 2^32)`, A in UQ32.32 samples; none where A = 0 (R59). -/
def pernCycles (a : Bus) : Option Frac :=
  if a.toNat = 0 then none else some ⟨2 ^ 32, a.toNat⟩

/-- `INV2PI_K` = round(2^128 / 2π) (R6, R60). -/
def inv2piK : Nat := 0x28BE60DB9391054A7F09D5F47D4D3770

/-- RAD: `s64(A) · INV2PI_K / 2^160`, A in SQ31.32 rad, two's complement (R60). -/
def radCycles (a : Bus) : Frac := ⟨a.toInt * inv2piK, 2 ^ 160⟩

end Sys2Proof.Machine
end

