-- ==== Sys2Proof/Machine/PhaseArith.lean ====
section
/-! DEFINITION. The meanings of INT, RATIO, ADD, SUB and CMP (spec/40_phase_arith.md). All five are pure: none reads or
writes PHASE, and none invokes a policy. -/

namespace Sys2Proof.Machine

/-- R51: `R <- u(A) mod 2^N; respond(R, 0)`. -/
def execInt (a _b : Bus) (s : State) : Result :=
  s.complete (s.chip.respondPhase (phaseOperand s.width.n a))

/-- R52: `R <- enc(v); respond(R, 0)` for a finite binary64 v, else `respond_err()`. -/
def execRatio (a _b : Bus) (s : State) : Result :=
  s.complete (s.chip.respondCycles (ratioCycles a))

/-- R53: `R <- (a + b) mod 2^N; respond(R, 0)`. -/
def execAdd (a b : Bus) (s : State) : Result :=
  s.complete (s.chip.respondPhase (phaseOperand s.width.n a + phaseOperand s.width.n b))

/-- R54: `R <- (a - b) mod 2^N; respond(R, 0)`. -/
def execSub (a b : Bus) (s : State) : Result :=
  s.complete (s.chip.respondPhase (phaseOperand s.width.n a - phaseOperand s.width.n b))

/-- R55: `R <- 4·gt + 2·eq + lt; respond(R, lt)`. -/
def execCmp (a b : Bus) (s : State) : Result :=
  s.complete (s.chip.respond
    (cmpResult (phaseOperand s.width.n a) (phaseOperand s.width.n b))
    (phaseLt (phaseOperand s.width.n a) (phaseOperand s.width.n b)))

end Sys2Proof.Machine
end

