-- ==== Sys2Proof/Machine/RateConverter.lean ====
section
/-! DEFINITION. The meanings of FREQ, PERS, PERN and RAD (spec/41_conversions.md). All four are pure (R61). -/

namespace Sys2Proof.Machine

/-- R57: rate from a frequency in Hz and a sample rate. -/
def execFreq (a b : Bus) (s : State) : Result :=
  s.complete (s.chip.respondCycles (freqCycles a b))

/-- R58: rate from a period in seconds and a sample rate. -/
def execPers (a b : Bus) (s : State) : Result :=
  s.complete (s.chip.respondCycles (persCycles a b))

/-- R59: rate from a period in samples. -/
def execPern (a _b : Bus) (s : State) : Result :=
  s.complete (s.chip.respondCycles (pernCycles a))

/-- R60: phase offset from an angle in radians. -/
def execRad (a _b : Bus) (s : State) : Result :=
  s.complete (s.chip.respondCycles (some (radCycles a)))

end Sys2Proof.Machine
end

