-- ==== Sys2Proof/Machine/Reserved.lean ====
section
/-! DEFINITION. The reserved opcodes (spec/30_encoding.md R45): an error response, and nothing else. -/

namespace Sys2Proof.Machine

/-- R45, opcode 0x0: `respond_err()`. An all-zero command cannot clear or advance the accumulator. -/
def execReserved0 (_a _b : Bus) (s : State) : Result := s.complete s.chip.respondErr

/-- R45, opcode 0xE: `respond_err()`. -/
def execReservedE (_a _b : Bus) (s : State) : Result := s.complete s.chip.respondErr

/-- R45, opcode 0xF: `respond_err()`. -/
def execReservedF (_a _b : Bus) (s : State) : Result := s.complete s.chip.respondErr

end Sys2Proof.Machine
end

