-- ==== Sys2Proof/Machine/Dispatch.lean ====
section
/-! DEFINITION. One arm per command: what an accepted command does at its edge. -/

namespace Sys2Proof.Machine

def exec (i : Instr) (s : State) : Host.Outcome State Fault Refusal :=
  match i with
  | .reserved0 a b => Sys2Proof.Machine.execReserved0 a b s
  | .int a b => Sys2Proof.Machine.execInt a b s
  | .ratio a b => Sys2Proof.Machine.execRatio a b s
  | .add a b => Sys2Proof.Machine.execAdd a b s
  | .sub a b => Sys2Proof.Machine.execSub a b s
  | .cmp a b => Sys2Proof.Machine.execCmp a b s
  | .freq a b => Sys2Proof.Machine.execFreq a b s
  | .pers a b => Sys2Proof.Machine.execPers a b s
  | .pern a b => Sys2Proof.Machine.execPern a b s
  | .rad a b => Sys2Proof.Machine.execRad a b s
  | .init a b => Sys2Proof.Machine.execInit a b s
  | .next a b => Sys2Proof.Machine.execNext a b s
  | .get a b => Sys2Proof.Machine.execGet a b s
  | .isstart a b => Sys2Proof.Machine.execIsstart a b s
  | .reservedE a b => Sys2Proof.Machine.execReservedE a b s
  | .reservedF a b => Sys2Proof.Machine.execReservedF a b s

end Sys2Proof.Machine
end

