-- ==== Sys2Proof/Machine/Step.lean ====
section
/-! DEFINITION. One rising edge of `clk` (spec/70_reset_and_hazards.md R77). -/

namespace Sys2Proof.Machine

/-- R77: exactly one of reset, accept and idle happens, decided by the pins just before the edge; `rst` comes first. -/
def step (s : State) : Host.Outcome State Fault Refusal :=
  let c := s.chip.beginEdge
  if c.pins.rst then s.complete c.resetRegs.endEdge
  else if c.pins.cmdValid then Result.endEdge (exec c.presented { s with chip := c })
  else s.complete c.idleRegs.endEdge

/-- PHACC fetches nothing (spec/10_state.md R17): the next command is the one on the command port at the coming edge
(spec/20_memory.md R39). So this places the command word there, not in reset, and leaves the policy ports as they are
(log entry 8). -/
def State.withFetchWord (s : State) (nbits w : Nat) : State :=
  { s with chip := s.chip.present (BitVec.ofNat 132 (w % 2 ^ nbits)) }

end Sys2Proof.Machine
end

