-- ==== Sys2Proof/Machine/Assembler.lean ====
section
/-! DEFINITION. The assembly notation of spec/30_encoding.md R48 and R49: one line of text to one command, or to an
idle cycle. The assembler stands outside the block: no meaning and no step uses this file. Conventions that R48 leaves
open are in log entry 9. -/

namespace Sys2Proof.Machine.Asm

/-! ## Literals -/

/-- An operand literal: raw bits (`0x…`), or a decimal number, held exactly. -/
inductive Literal where
  | hex (v : Nat)
  | dec (q : Frac)
deriving DecidableEq, Repr

/-- The format that a literal is converted to (R48). -/
inductive Format where
  /-- UQm.n, n fractional bits -/
  | uq (n : Nat)
  /-- a period: UQm.n, n fractional bits, and not the number 0 -/
  | period (n : Nat)
  /-- SQm.n, n fractional bits, two's complement -/
  | sq (n : Nat)
  | binary64
  /-- a phase value of N bits -/
  | phase (N : Nat)
  | sampleRate
deriving DecidableEq, Repr

/-- n/d rounded to the nearest integer, ties to even. -/
def roundEven (n d : Nat) : Nat :=
  let q := n / d
  let r := n % d
  if 2 * r < d then q else if d < 2 * r then q + 1 else q + q % 2

/-- The exponent k of a positive n/d: 2^k ≤ n/d < 2^(k+1). -/
def floorLog2 (n d : Nat) : Int :=
  let k : Int := (Nat.log2 n : Int) - Nat.log2 d
  if n * pow2 (-k).toNat < d * pow2 k.toNat then k - 1 else k

/-- The binary64 value nearest to q, ties to even (R48, spec/93_implementation_defined.md G2): m · 2^u with u the
exponent of its last bit, m rounded; `(u + 1074) · 2^52 + m` is then its exponent and fraction fields together, the
carry of a rounding to the next power of two included. Refused where it would be an infinity. -/
def binary64Field (q : Frac) : Option Bus :=
  let n := q.num.natAbs
  let u : Int := if n = 0 then -1074 else max (floorLog2 n q.den - 52) (-1074)
  let m := roundEven (n * pow2 (-u).toNat) (q.den * pow2 u.toNat)
  let bits := (u + 1074).toNat * 2 ^ 52 + m
  if bits < 2047 * 2 ^ 52 then some (BitVec.ofNat 64 (bits + (if q.num < 0 then 2 ^ 63 else 0))) else none

/-- An integer field within given bounds; refused outside them. -/
def intField (z lo hi : Int) : Option Bus :=
  if lo ≤ z ∧ z ≤ hi then some (BitVec.ofInt 64 z) else none

/-- A literal that must be an integer. -/
def wholeField (q : Frac) (lo hi : Int) : Option Bus :=
  if q.num % q.den = 0 then intField (q.num / q.den) lo hi else none

/-- The field of a decimal number in UQm.n (R48): `rnd(d · 2^n)`, refused where it does not fit 64 bits. R48 does not say
whether the number itself or its rounded field must fit. Here the rounded field must (DESIGN CHOICE, log entry 9): a
negative number that rounds to 0 is read as 0, and one just below 2^m that rounds up to 2^m is refused. -/
def uqField (n : Nat) (q : Frac) : Option Bus := intField (rndDiv (q.num * 2 ^ n) q.den) 0 (2 ^ 64 - 1)

/-- The field of a decimal number in SQm.n (R48), judged to fit after rounding, as in `uqField`. -/
def sqField (n : Nat) (q : Frac) : Option Bus := intField (rndDiv (q.num * 2 ^ n) q.den) (-2 ^ 63) (2 ^ 63 - 1)

/-- The field of a decimal period. R48 refuses only what does not fit the format, but spec/95_test_vectors.md P2 says that
the assembler refuses the decimal `pern 0`: the number 0 is refused, for PERN as P2 says and for PERS alike (DEDUCED, log
entry 9). A number other than 0 whose field rounds to 0 is read as 0, as R48's rule gives (DESIGN CHOICE, log entry 9). -/
def periodField (n : Nat) (q : Frac) : Option Bus := if q.num = 0 then none else uqField n q

/-- The 64-bit field of a literal (R48): raw bits zero-extended, or the decimal number converted to the format; none
where the assembler refuses it. -/
def Literal.field (f : Format) : Literal → Option Bus
  | .hex v => if v < 2 ^ 64 then some (BitVec.ofNat 64 v) else none
  | .dec q =>
    match f with
    | .uq n => uqField n q
    | .period n => periodField n q
    | .sq n => sqField n q
    | .binary64 => binary64Field q
    | .phase N => wholeField q 0 (2 ^ N - 1)
    | .sampleRate => wholeField q 1 (2 ^ 32 - 1)

/-! ## Mnemonics and pseudo-instructions -/

/-- The mnemonics of R48 and the pseudo-instructions of R49. -/
inductive Mnemonic where
  | int | ratio | add | sub | cmp | freq | pers | pern | rad | init | next | get | isstart
  | neg | lt | peek | advance | isStart | zero
  | reserved | idle
deriving DecidableEq, Repr

/-- Their spelling, in lower case. -/
def spellings : List (String × Mnemonic) :=
  [("int", .int), ("ratio", .ratio), ("add", .add), ("sub", .sub), ("cmp", .cmp), ("freq", .freq), ("pers", .pers),
   ("pern", .pern), ("rad", .rad), ("init", .init), ("next", .next), ("get", .get), ("isstart", .isstart)] ++
  [("neg", .neg), ("lt", .lt), ("peek", .peek), ("advance", .advance), ("is_start", .isStart), ("zero", .zero)] ++
  [(".reserved", .reserved), ("idle", .idle)]

/-- The operands that a mnemonic takes, with their formats (R48, R49). -/
def Mnemonic.formats (N : Nat) : Mnemonic → List Format
  | .int | .neg => [.phase N]
  | .ratio => [.binary64]
  | .add | .sub | .cmp | .lt => [.phase N, .phase N]
  | .freq => [.uq 32, .sampleRate]
  | .pers => [.period 48, .sampleRate]
  | .pern => [.period 32]
  | .rad => [.sq 32]
  | .init | .next | .get | .isstart | .peek | .advance | .isStart | .zero | .idle => []
  | .reserved => [.phase 4]

/-- One assembled line. -/
inductive Line where
  | command (i : Instr)
  /-- one cycle with `cmd_valid = 0`; not an encoding -/
  | idle
  /-- nothing but white space or a comment -/
  | blank
deriving DecidableEq, Repr

/-- R48, R49: the one command that a mnemonic with its operand fields stands for; a bus without an operand is 0. -/
def Mnemonic.line : Mnemonic → List Bus → Option Line
  | .int, [a] => some (.command (.int a 0))
  | .ratio, [x] => some (.command (.ratio x 0))
  | .add, [a, b] => some (.command (.add a b))
  | .sub, [a, b] => some (.command (.sub a b))
  | .cmp, [a, b] => some (.command (.cmp a b))
  | .freq, [f, sr] => some (.command (.freq f sr))
  | .pers, [p, sr] => some (.command (.pers p sr))
  | .pern, [n] => some (.command (.pern n 0))
  | .rad, [x] => some (.command (.rad x 0))
  | .init, [] => some (.command (.init 0 0))
  | .next, [] => some (.command (.next 0 0))
  | .get, [] => some (.command (.get 0 0))
  | .isstart, [] => some (.command (.isstart 0 0))
  | .neg, [b] => some (.command (.sub 0 b))
  | .lt, [a, b] => some (.command (.cmp a b))
  | .peek, [] => some (.command (.get 0 0))
  | .advance, [] => some (.command (.next 0 0))
  | .isStart, [] => some (.command (.isstart 0 0))
  | .zero, [] => some (.command (.int 0 0))
  | .reserved, [op] =>
    if op = 0x0#64 then some (.command (.reserved0 0 0))
    else if op = 0xE#64 then some (.command (.reservedE 0 0))
    else if op = 0xF#64 then some (.command (.reservedF 0 0))
    else none
  | .idle, [] => some .idle
  | _, _ => none

/-! ## The text of a line -/

/-- A letter in lower case: the mnemonic is case-insensitive (R48). -/
def lower (c : Char) : Char := if 'A' ≤ c ∧ c ≤ 'Z' then Char.ofNat (c.toNat + 32) else c

/-- White space inside a line. -/
def isSpace (c : Char) : Bool := c == ' ' || c == '\t' || c == '\r'

/-- Without the white space at both ends. -/
def trim (cs : List Char) : List Char := ((cs.dropWhile isSpace).reverse.dropWhile isSpace).reverse

/-- The value of a digit in base 10 or 16. -/
def digit (c : Char) : Nat :=
  if '0' ≤ c ∧ c ≤ '9' then c.toNat - 48 else if 'a' ≤ c ∧ c ≤ 'f' then c.toNat - 87 else 16

/-- The number that digits of a base stand for, none where there is no digit or a character is none. -/
def number (base : Nat) (cs : List Char) : Option Nat :=
  if cs.isEmpty || cs.any (fun c => decide (base ≤ digit c)) then none
  else some (cs.foldl (fun n c => base * n + digit c) 0)

/-- The integer digits and, after a point, the fraction digits of a decimal number. -/
def decimal (cs : List Char) : Option Frac :=
  let whole := cs.takeWhile (· != '.')
  match cs.dropWhile (· != '.') with
  | [] => (number 10 whole).map fun n => ⟨n, 1⟩
  | _ :: frac => do
    let n ← number 10 whole
    let f ← number 10 frac
    return ⟨n * 10 ^ frac.length + f, 10 ^ frac.length⟩

/-- A literal: `0x` and hexadecimal digits, or a decimal number with an optional minus sign. -/
def literal (cs : List Char) : Option Literal :=
  match cs with
  | '0' :: 'x' :: hs => (number 16 hs).map .hex
  | '-' :: ds => (decimal ds).map fun q => .dec ⟨-q.num, q.den⟩
  | ds => (decimal ds).map .dec

/-- The operands of a line, separated by commas. -/
def operands (cs : List Char) : List (List Char) :=
  if cs.isEmpty then [] else (cs.splitOn ',').map trim

/-- One line to what it stands for (R48), for a block of width N; none where the assembler refuses it. -/
def assemble (N : Nat) (text : List Char) : Option Line :=
  let cs := trim ((text.takeWhile (· != ';')).map lower)
  if cs.isEmpty then some .blank
  else do
    let m ← (spellings.find? fun p => p.1.toList == cs.takeWhile (fun c => !isSpace c)).map (·.2)
    let args := operands (trim (cs.dropWhile (fun c => !isSpace c)))
    if args.length = (m.formats N).length then
      let fields ← ((m.formats N).zip args).mapM fun p => (literal p.2).bind (Literal.field p.1)
      m.line fields
    else none

/-- A line as the input of edges: a command is presented in one cycle, an idle line is one cycle without a command, a
blank line is no cycle; the policy sources present the two given values (R48, spec/10_state.md R20). -/
def Line.pins {N : Nat} (rate offset : BitVec N) : Line → List (Pins N)
  | .command i => [{ rst := false, cmdValid := true, cmdOp := i.opcode, cmdA := i.opA, cmdB := i.opB,
                     freqRate := .settled rate, shiftOff := .settled offset }]
  | .idle => [{ Pins.idle N with freqRate := .settled rate, shiftOff := .settled offset }]
  | .blank => []

end Sys2Proof.Machine.Asm
end

