-- ==== Sys2Proof/Safety.lean ====
section
/-! DEFINITION. A run, its observation, and when it is faulted (spec/70_reset_and_hazards.md R87, spec/60_exceptions.md
R69), and the invariant of spec/10_state.md R25. -/

namespace Sys2Proof.Safety

open Sys2Proof.Machine

/-- One response `(RSP_DATA, RSP_FLAG, RSP_ERR)`. -/
structure Response where
  data : Bus
  flag : Bool
  err : Bool
deriving DecidableEq, Repr

/-- One invoking edge `(edge, freq_take, shift_take)`. -/
structure Invocation where
  edge : Nat
  freqTake : Bool
  shiftTake : Bool
deriving DecidableEq, Repr

/-- R87: what is observed of a run. -/
structure Observation where
  responses : List Response
  invocations : List Invocation
  phase : Nat
deriving DecidableEq, Repr

/-- The response that an edge left, if it accepted a command: RSP_VALID = 1 just after it (R21). -/
def responseOf (s : State) : List Response :=
  if s.chip.rspValid then [⟨s.chip.rspData, s.chip.rspFlag, s.chip.rspErr⟩] else []

/-- The invocation that edge number `k` made, if any. -/
def invocationOf (k : Nat) (s : State) : List Invocation :=
  if s.chip.freqTaken || s.chip.shiftTaken then [⟨k, s.chip.freqTaken, s.chip.shiftTaken⟩] else []

/-- The observation of `n` edges from `s`, the first of them numbered `k` (R87). A fault or a refusal, which PHACC does
not have, would end it. -/
def observe : (n k : Nat) → State → Observation
  | 0, _, s => ⟨[], [], s.chip.phase.toNat⟩
  | n + 1, k, s =>
    match step s with
    | .next t =>
      let o := observe n (k + 1) t
      ⟨responseOf t ++ o.responses, invocationOf k t ++ o.invocations, o.phase⟩
    | .fault _ => ⟨[], [], s.chip.phase.toNat⟩
    | .refused _ => ⟨[], [], s.chip.phase.toNat⟩

/-- R87, R69: a run with any response where RSP_ERR = 1 is a faulted run: no claim is made about it
(spec/93_implementation_defined.md U4, S4, S5). The machine itself goes on (log entry 6). -/
def faultedRun (n : Nat) (s : State) : Bool := (observe n 0 s).responses.any (·.err)

/-- A safe run: it answers no error response. -/
def safeRun (n : Nat) (s : State) : Bool := !faultedRun n s

/-- What holds after every edge: `0 ≤ PHASE ≤ 2^N - 1` and `RSP_DATA < 2^max(N, 3)` (R25), the flag is 1 only where the
data is 1 (R19: it is CMP's lt or ISSTART's F), and an error response has data 0 and flag 0 (R69). -/
def StateInv (s : State) : Prop :=
  s.chip.phase.toNat ≤ 2 ^ s.width.n - 1 ∧
  s.chip.rspData.toNat < 2 ^ max s.width.n 3 ∧
  (s.chip.rspFlag = true → s.chip.rspData = 1) ∧
  (s.chip.rspErr = true → s.chip.rspData = 0 ∧ s.chip.rspFlag = false)

end Sys2Proof.Safety
end

