-- ==== Sys2Proof/Certificates/Slice0/Obligations.lean ====
section
/-! DEFINITION. The statements about PHACC, for the provers. A state is written `State.mk w c`: a block `c` of width
`w`. A result is written with the spec's integer and rational arithmetic (spec/00_scope.md R9 to R11), not with the
operations of the meanings. An equation `exec i (State.mk w c) = .next (State.mk w c')` gives the whole next state, so
it is also the command's frame: what `c'` does not list is unchanged. -/

namespace Sys2Proof.Claims

open Sys2Proof.Machine Sys2Proof.Safety

/-- The block `c` with a response in its response registers: the data as a number, the flag, the error bit. -/
def answer {N : Nat} (c : Phacc N) (data : Nat) (flag err : Bool) : Phacc N :=
  { c with rspValid := true, rspData := BitVec.ofNat 64 data, rspFlag := flag, rspErr := err }

/-- One free value is used up where the port is unsettled, none where it is settled. -/
def drawn {N : Nat} (p : PortValue N) : Nat := if p = .unsettled then 1 else 0

/-- `v` is the value that an invocation of the policy on port `p` returns: the settled value; where the port is
unsettled, any N-bit value may be (spec/70_reset_and_hazards.md R83). -/
def Returns {N : Nat} (p : PortValue N) (v : BitVec N) : Prop := ∀ u, p = .settled u → v = u

/-- The biased exponent of a binary64 number: `u(A[62:52])` (spec/40_phase_arith.md R52). -/
def exponent64 (a : Bus) : Nat := a.toNat / 2 ^ 52 % 2 ^ 11

/-- The exact value of a finite binary64 number (R52). -/
def value64 (a : Bus) : ℚ :=
  let e : Int := exponent64 a
  let f : ℚ := (a.toNat % 2 ^ 52 : Nat)
  let v : ℚ := if e = 0 then f * 2 ^ (-1074 : Int) else (2 ^ 52 + f) * 2 ^ (e - 1075)
  if a.toNat / 2 ^ 63 = 1 then -v else v

/-- The sample rate `u(B[31:0])`. -/
def rateHz (b : Bus) : Nat := b.toNat % 2 ^ 32

/-- Exactly the cases of spec/60_exceptions.md R69's table. -/
def invalid : Instr → Prop
  | .reserved0 _ _ | .reservedE _ _ | .reservedF _ _ => True
  | .freq _ b => rateHz b = 0
  | .pers a b => rateHz b = 0 ∨ a.toNat = 0
  | .pern a _ => a.toNat = 0
  | .ratio a _ => exponent64 a = 2047
  | .int _ _ | .add _ _ | .sub _ _ | .cmp _ _ | .rad _ _ | .init _ _ | .next _ _ | .get _ _ | .isstart _ _ => False

/-- The state after `k` edges, by the host's own runner. -/
def after (k : Nat) (s : State) : Result := Host.Core.run Sys2Proof.core k s

/-- The pins present NEXT, not in reset, with the rate `r` settled on `freq_rate`. -/
def PresentsNext {N : Nat} (r : BitVec N) (p : Pins N) : Prop :=
  p.rst = false ∧ p.cmdValid = true ∧ p.cmdOp = 0xB#4 ∧ p.freqRate = .settled r

/-- The pins present ISSTART, not in reset, with the rate `r` settled on `freq_rate`. -/
def PresentsIsstart {N : Nat} (r : BitVec N) (p : Pins N) : Prop :=
  p.rst = false ∧ p.cmdValid = true ∧ p.cmdOp = 0xD#4 ∧ p.freqRate = .settled r

/-- The invocations at the edges of the given inputs, the first of them numbered `k`, by the table of spec/10_state.md R24
for the command that each edge accepts (R20). -/
def invocationsOf {N : Nat} (k : Nat) : List (Pins N) → List Invocation
  | [] => []
  | p :: rest =>
    (if p.rst = true ∨ p.cmdValid = false then []
     else if p.cmdOp = 0xB#4 then [⟨k, true, true⟩]
     else if p.cmdOp = 0xC#4 then [⟨k, false, true⟩]
     else if p.cmdOp = 0xD#4 then [⟨k, true, false⟩]
     else []) ++ invocationsOf (k + 1) rest

/-- The commands that read no policy and do not touch PHASE (spec/40_phase_arith.md, spec/41_conversions.md R61). -/
def isPure : Instr → Bool
  | .int _ _ | .ratio _ _ | .add _ _ | .sub _ _ | .cmp _ _ | .freq _ _ | .pers _ _ | .pern _ _ | .rad _ _ => true
  | .reserved0 _ _ | .reservedE _ _ | .reservedF _ _ | .init _ _ | .next _ _ | .get _ _ | .isstart _ _ => false

/-- The commands that read a policy port. -/
def readsPolicy : Instr → Bool
  | .next _ _ | .get _ _ | .isstart _ _ => true
  | .int _ _ | .ratio _ _ | .add _ _ | .sub _ _ | .cmp _ _ | .freq _ _ | .pers _ _ | .pern _ _ | .rad _ _
  | .reserved0 _ _ | .reservedE _ _ | .reservedF _ _ | .init _ _ => false

end Sys2Proof.Claims

open Sys2Proof Sys2Proof.Machine Sys2Proof.Claims Sys2Proof.Safety

/-! ## Phase value arithmetic (spec/40_phase_arith.md) -/

/-- R51, INT. -/
def Obligations.IntKeepsTheLowNBits : Prop :=
  ∀ (w : Width) (c : Phacc w.n) (a b : Bus),
    decode 0x1#4 a b = .int a b ∧
    exec (.int a b) (State.mk w c) = .next (State.mk w (answer c (a.toNat % 2 ^ w.n) false false))

/-- R52, RATIO: the error response exactly where e = 2047, else `enc(v)` of the exact value v. -/
def Obligations.RatioEncodesTheBinary64Value : Prop :=
  ∀ (w : Width) (c : Phacc w.n) (a b : Bus),
    decode 0x2#4 a b = .ratio a b ∧
    (exponent64 a = 2047 → exec (.ratio a b) (State.mk w c) = .next (State.mk w (answer c 0 false true))) ∧
    (exponent64 a ≠ 2047 →
      exec (.ratio a b) (State.mk w c) = .next (State.mk w (answer c (enc w.n (value64 a)).toNat false false)))

/-- R52, corner case: a ratio that is a whole number of cycles gives 0. -/
def Obligations.RatioOfWholeCyclesIsZero : Prop :=
  ∀ (w : Width) (c : Phacc w.n) (a b : Bus) (k : Int), exponent64 a ≠ 2047 → value64 a = k →
    exec (.ratio a b) (State.mk w c) = .next (State.mk w (answer c 0 false false))

/-- R53, ADD. -/
def Obligations.AddIsModuloTwoToN : Prop :=
  ∀ (w : Width) (c : Phacc w.n) (a b : Bus),
    decode 0x3#4 a b = .add a b ∧
    exec (.add a b) (State.mk w c) =
      .next (State.mk w (answer c ((a.toNat % 2 ^ w.n + b.toNat % 2 ^ w.n) % 2 ^ w.n) false false))

/-- R54, SUB, with a Euclidean remainder. -/
def Obligations.SubIsModuloTwoToN : Prop :=
  ∀ (w : Width) (c : Phacc w.n) (a b : Bus),
    decode 0x4#4 a b = .sub a b ∧
    exec (.sub a b) (State.mk w c) =
      .next (State.mk w
        (answer c ((((a.toNat % 2 ^ w.n : Nat) : Int) - ((b.toNat % 2 ^ w.n : Nat) : Int)) % 2 ^ w.n).toNat false false))

/-- R55, CMP: `4·gt + 2·eq + lt`, flag lt. -/
def Obligations.CmpComparesUnsigned : Prop :=
  ∀ (w : Width) (c : Phacc w.n) (a b : Bus),
    decode 0x5#4 a b = .cmp a b ∧
    exec (.cmp a b) (State.mk w c) =
      .next (State.mk w
        (if a.toNat % 2 ^ w.n < b.toNat % 2 ^ w.n then answer c 1 true false
         else if a.toNat % 2 ^ w.n = b.toNat % 2 ^ w.n then answer c 2 false false
         else answer c 4 false false))

/-- R56 item 3: ADD is commutative and associative with identity 0, and SUB(a, b) = ADD(a, SUB(0, b)), as commands whose
operands are earlier responses. -/
def Obligations.AddAndSubLaws : Prop :=
  ∀ (w : Width) (c : Phacc w.n) (x y z : Bus),
    exec (.add x y) (State.mk w c) = exec (.add y x) (State.mk w c) ∧
    exec (.add x 0) (State.mk w c) = exec (.int x 0) (State.mk w c) ∧
    (∃ xy yz ny : Phacc w.n,
      exec (.add x y) (State.mk w c) = .next (State.mk w xy) ∧
      exec (.add y z) (State.mk w c) = .next (State.mk w yz) ∧
      exec (.sub 0 y) (State.mk w c) = .next (State.mk w ny) ∧
      exec (.add xy.rspData z) (State.mk w c) = exec (.add x yz.rspData) (State.mk w c) ∧
      exec (.sub x y) (State.mk w c) = exec (.add x ny.rspData) (State.mk w c))

/-! ## The phase-rate converter (spec/41_conversions.md) -/

/-- R57, FREQ. -/
def Obligations.FreqEncodesHertzOverRate : Prop :=
  ∀ (w : Width) (c : Phacc w.n) (a b : Bus),
    decode 0x6#4 a b = .freq a b ∧
    (rateHz b = 0 → exec (.freq a b) (State.mk w c) = .next (State.mk w (answer c 0 false true))) ∧
    (rateHz b ≠ 0 →
      exec (.freq a b) (State.mk w c) =
        .next (State.mk w (answer c (enc w.n ((a.toNat : ℚ) / 2 ^ 32 / rateHz b)).toNat false false)))

/-- R57, corner case: f and f + k·sr give the same rate. -/
def Obligations.FreqAliasesAtTheSampleRate : Prop :=
  ∀ (w : Width) (c : Phacc w.n) (a a' b : Bus) (k : Nat), a'.toNat = a.toNat + k * (rateHz b * 2 ^ 32) →
    exec (.freq a' b) (State.mk w c) = exec (.freq a b) (State.mk w c)

/-- R57, corner case: f = sr/2 gives 2^(N-1). -/
def Obligations.FreqAtNyquistIsHalfACycle : Prop :=
  ∀ (w : Width) (c : Phacc w.n) (a b : Bus), rateHz b ≠ 0 → 2 * a.toNat = rateHz b * 2 ^ 32 →
    exec (.freq a b) (State.mk w c) = .next (State.mk w (answer c (2 ^ (w.n - 1)) false false))

/-- R58, PERS. -/
def Obligations.PersEncodesTheReciprocal : Prop :=
  ∀ (w : Width) (c : Phacc w.n) (a b : Bus),
    decode 0x7#4 a b = .pers a b ∧
    (rateHz b = 0 ∨ a.toNat = 0 →
      exec (.pers a b) (State.mk w c) = .next (State.mk w (answer c 0 false true))) ∧
    (rateHz b ≠ 0 → a.toNat ≠ 0 →
      exec (.pers a b) (State.mk w c) =
        .next (State.mk w (answer c (enc w.n (1 / ((rateHz b : ℚ) * ((a.toNat : ℚ) / 2 ^ 48)))).toNat false false)))

/-- R59, PERN. -/
def Obligations.PernEncodesTheReciprocal : Prop :=
  ∀ (w : Width) (c : Phacc w.n) (a b : Bus),
    decode 0x8#4 a b = .pern a b ∧
    (a.toNat = 0 → exec (.pern a b) (State.mk w c) = .next (State.mk w (answer c 0 false true))) ∧
    (a.toNat ≠ 0 →
      exec (.pern a b) (State.mk w c) =
        .next (State.mk w (answer c (enc w.n (1 / ((a.toNat : ℚ) / 2 ^ 32))).toNat false false)))

/-- R60, RAD: the rule with `INV2PI_K`, which is normative (its corner case about the ideal angle is not stated). -/
def Obligations.RadScalesByTheConstant : Prop :=
  ∀ (w : Width) (c : Phacc w.n) (a b : Bus),
    decode 0x9#4 a b = .rad a b ∧
    exec (.rad a b) (State.mk w c) =
      .next (State.mk w (answer c
        (rnd ((a.toInt : ℚ) * 54157620742477409023451113735280473968 * 2 ^ w.n / 2 ^ 160) % 2 ^ w.n).toNat false false))

/-- R61: the response of a conversion depends on A and B alone, and it reads or writes neither PHASE nor a policy. -/
def Obligations.PureCommandsDependOnOperandsAlone : Prop :=
  ∀ (w : Width) (c d : Phacc w.n) (i : Instr), isPure i = true →
    ∃ (data : Nat) (flag err : Bool),
      exec i (State.mk w c) = .next (State.mk w (answer c data flag err)) ∧
      exec i (State.mk w d) = .next (State.mk w (answer d data flag err))

/-! ## Rounding (spec/00_scope.md) -/

/-- R10: for an integer numerator and a positive integer denominator. -/
def Obligations.RoundingOfAFraction : Prop :=
  ∀ (n : Int) (d : Nat), 0 < d →
    rnd ((n : ℚ) / d) = ⌊((2 * n + d : Int) : ℚ) / ((2 * d : Nat) : ℚ)⌋ ∧ rndDiv n d = rnd ((n : ℚ) / d)

/-- R11: reducing x by whole cycles before rounding gives the same phase value. -/
def Obligations.EncodingAliasesByWholeCycles : Prop :=
  ∀ (N : Nat) (x : ℚ) (k : Int), enc N (x + k) = enc N x

/-- R62 item 1: the encoding is the integer nearest to x·2^N modulo 2^N; the error is at most 1/2, and a tie rounds up. -/
def Obligations.EncodingIsNearest : Prop :=
  ∀ (N : Nat) (x : ℚ), ∃ k : Int,
    -(1 / 2) < ((enc N x).toNat : ℚ) + k * 2 ^ N - x * 2 ^ N ∧
    ((enc N x).toNat : ℚ) + k * 2 ^ N - x * 2 ^ N ≤ 1 / 2

/-! ## The accumulator (spec/42_accumulator.md) -/

/-- R63, INIT. -/
def Obligations.InitZeroesPhase : Prop :=
  ∀ (w : Width) (c : Phacc w.n) (a b : Bus),
    decode 0xA#4 a b = .init a b ∧
    exec (.init a b) (State.mk w c) = .next (State.mk w (answer { c with phase := 0 } 0 false false))

/-- R64, NEXT, at every policy value: settled, or unsettled (then r or o is a free value). The model's own, not R64's: the
strobe records (log entry 4, DEDUCED) and the counters of free values (log entry 5, DESIGN CHOICE). -/
def Obligations.NextAdvancesAndAnswersThePrevious : Prop :=
  ∀ (w : Width) (c : Phacc w.n) (a b : Bus),
    decode 0xB#4 a b = .next a b ∧
    ∃ r o : BitVec w.n, Returns c.pins.freqRate r ∧ Returns c.pins.shiftOff o ∧
      exec (.next a b) (State.mk w c) =
        .next (State.mk w (answer
          { c with
            phase := BitVec.ofNat w.n ((c.phase.toNat + r.toNat) % 2 ^ w.n)
            freqTaken := true, shiftTaken := true
            rateDraws := c.rateDraws + drawn c.pins.freqRate
            offsetDraws := c.offsetDraws + drawn c.pins.shiftOff }
          ((o.toNat + c.phase.toNat) % 2 ^ w.n) false false))

/-- R65, GET, at every value of `shift_off`. The model's own, not R65's: the strobe record (log entry 4, DEDUCED) and the
counter of free values (log entry 5, DESIGN CHOICE). -/
def Obligations.GetPeeksWithTheOffset : Prop :=
  ∀ (w : Width) (c : Phacc w.n) (a b : Bus),
    decode 0xC#4 a b = .get a b ∧
    ∃ o : BitVec w.n, Returns c.pins.shiftOff o ∧
      exec (.get a b) (State.mk w c) =
        .next (State.mk w (answer
          { c with shiftTaken := true, offsetDraws := c.offsetDraws + drawn c.pins.shiftOff }
          ((o.toNat + c.phase.toNat) % 2 ^ w.n) false false))

/-- R66, ISSTART, at every value of `freq_rate`. The model's own, not R66's: the strobe record (log entry 4, DEDUCED) and
the counter of free values (log entry 5, DESIGN CHOICE). -/
def Obligations.IsstartComparesPhaseWithTheRate : Prop :=
  ∀ (w : Width) (c : Phacc w.n) (a b : Bus),
    decode 0xD#4 a b = .isstart a b ∧
    ∃ r : BitVec w.n, Returns c.pins.freqRate r ∧
      exec (.isstart a b) (State.mk w c) =
        .next (State.mk w
          (let c' := { c with freqTaken := true, rateDraws := c.rateDraws + drawn c.pins.freqRate }
           if c.phase.toNat < r.toNat then answer c' 1 true false else answer c' 0 false false))

/-- R67 item 1, from any PHASE: M NEXT commands at the constant rate r and offset 0. -/
def Obligations.MonotonicAdvance : Prop :=
  ∀ (w : Width) (c : Phacc w.n) (r : BitVec w.n) (k : Nat), k ≤ c.inputs.length →
    (∀ p ∈ c.inputs.take k, PresentsNext r p ∧ p.shiftOff = .settled 0) →
    ∃ c' : Phacc w.n, after k (State.mk w c) = .next (State.mk w c') ∧
      c'.phase.toNat = (c.phase.toNat + k * r.toNat) % 2 ^ w.n ∧
      (0 < k → c'.rspValid = true ∧ c'.rspErr = false ∧
        c'.rspData.toNat = (c.phase.toNat + (k - 1) * r.toNat) % 2 ^ w.n)

/-- R67 item 2: inputs that differ at `shift_off` alone give the same PHASE after every edge, and the responses of a NEXT
differ by exactly the difference of the offsets. R67 asks for the same rate value at each NEXT: where a rate is unsettled
in both runs, it is the same here because both draw one free value by equal counters (log entry 5, DESIGN CHOICE); edges
past the lists' end are idle (log entry 3, DESIGN CHOICE). -/
def Obligations.ShiftIndependence : Prop :=
  ∀ (w : Width) (c : Phacc w.n) (l m : List (Pins w.n)),
    List.Forall₂ (fun p q => { p with shiftOff := q.shiftOff } = q) l m →
    ∀ k : Nat, ∃ c1 c2 : Phacc w.n,
      after k (State.mk w { c with inputs := l }) = .next (State.mk w c1) ∧
      after k (State.mk w { c with inputs := m }) = .next (State.mk w c2) ∧
      c1.phase = c2.phase ∧
      (∀ (p q : Pins w.n) (r o1 o2 : BitVec w.n), 0 < k → l[k - 1]? = some p → m[k - 1]? = some q →
        PresentsNext r p → p.shiftOff = .settled o1 → q.shiftOff = .settled o2 →
        c1.rspData.setWidth w.n - c2.rspData.setWidth w.n = o1 - o2)

/-- R67 item 3, at a constant rate r > 0: just after a NEXT, ISSTART answers whether that NEXT wrapped; just after INIT or
reset it answers 1. -/
def Obligations.CycleStartAtConstantRate : Prop :=
  ∀ (w : Width) (c : Phacc w.n) (r : BitVec w.n) (p q : Pins w.n) (rest : List (Pins w.n)), 0 < r.toNat →
    c.inputs = p :: q :: rest → PresentsIsstart r q →
    (PresentsNext r p → ∃ c' : Phacc w.n, after 2 (State.mk w c) = .next (State.mk w c') ∧
      c'.rspFlag = decide (2 ^ w.n ≤ c.phase.toNat + r.toNat)) ∧
    (p.rst = true ∨ (p.cmdValid = true ∧ p.cmdOp = 0xA#4) →
      ∃ c' : Phacc w.n, after 2 (State.mk w c) = .next (State.mk w c') ∧ c'.rspFlag = true)

/-- R67 item 3: at a constant rate r > 0 and from a phase below r (where the last wrap left it), the next NEXT that wraps
is number floor(2^N / r) or ceil(2^N / r), and none before it wraps. -/
def Obligations.WrapsAreFloorOrCeilApart : Prop :=
  ∀ (w : Width) (c : Phacc w.n) (r : BitVec w.n), c.phase.toNat < r.toNat →
    (2 ^ w.n + r.toNat - 1) / r.toNat ≤ c.inputs.length →
    (∀ p ∈ c.inputs.take ((2 ^ w.n + r.toNat - 1) / r.toNat), PresentsNext r p) →
    ∃ k : Nat, (k + 1 = 2 ^ w.n / r.toNat ∨ k + 1 = (2 ^ w.n + r.toNat - 1) / r.toNat) ∧
      (∀ j < k, ∃ c' : Phacc w.n, after j (State.mk w c) = .next (State.mk w c') ∧
        c'.phase.toNat + r.toNat < 2 ^ w.n) ∧
      (∃ c' : Phacc w.n, after k (State.mk w c) = .next (State.mk w c') ∧ 2 ^ w.n ≤ c'.phase.toNat + r.toNat)

/-- R62 item 2: after M NEXT commands from phase 0 at the rate that encodes x, PHASE differs from M·x·2^N, modulo 2^N, by
exactly M·(R - x·2^N), where R - x·2^N is the rounding error of the rate. -/
def Obligations.AccumulatedErrorIsExact : Prop :=
  ∀ (w : Width) (c : Phacc w.n) (x : ℚ) (k : Nat), c.phase = 0 → k ≤ c.inputs.length →
    (∀ p ∈ c.inputs.take k, PresentsNext (enc w.n x) p) →
    ∃ c' : Phacc w.n, after k (State.mk w c) = .next (State.mk w c') ∧
      (∃ z : Int, (c'.phase.toNat : ℚ) + z * 2 ^ w.n - k * x * 2 ^ w.n = k * ((rnd (x * 2 ^ w.n) : ℚ) - x * 2 ^ w.n)) ∧
      |(rnd (x * 2 ^ w.n) : ℚ) - x * 2 ^ w.n| ≤ 1 / 2

/-! ## Reserved opcodes and the error response -/

/-- R45: the three reserved opcodes. -/
def Obligations.ReservedOpcodesOnlyAnswerAnError : Prop :=
  ∀ (w : Width) (c : Phacc w.n) (a b : Bus),
    (decode 0x0#4 a b = .reserved0 a b ∧ decode 0xE#4 a b = .reservedE a b ∧ decode 0xF#4 a b = .reservedF a b) ∧
    exec (.reserved0 a b) (State.mk w c) = .next (State.mk w (answer c 0 false true)) ∧
    exec (.reservedE a b) (State.mk w c) = .next (State.mk w (answer c 0 false true)) ∧
    exec (.reservedF a b) (State.mk w c) = .next (State.mk w (answer c 0 false true))

/-- R69: RSP_ERR = 1 in exactly the table's cases, and an error response changes nothing else. -/
def Obligations.ErrorResponseInExactlyTheseCases : Prop :=
  ∀ (i : Instr) (w : Width) (c : Phacc w.n), ∃ c' : Phacc w.n,
    exec i (State.mk w c) = .next (State.mk w c') ∧ (c'.rspErr = true ↔ invalid i) ∧
    (c'.rspErr = true → c' = answer c 0 false true)

/-- R19: only CMP and ISSTART answer a flag of 1; R55, R66: then the data is 1. -/
def Obligations.OnlyCmpAndIsstartRaiseTheFlag : Prop :=
  ∀ (i : Instr) (w : Width) (c : Phacc w.n), ∃ c' : Phacc w.n,
    exec i (State.mk w c) = .next (State.mk w c') ∧
    (c'.rspFlag = true → (i.opcode = 0x5#4 ∨ i.opcode = 0xD#4) ∧ c'.rspData = 1)

/-! ## Encoding (spec/30_encoding.md) -/

/-- Command words written out from R42 and R44. -/
def Obligations.WordsOfTheSpecDecode : Prop :=
  decodeWord 0x6000001B900000000000000000000AC44#132 = .freq 0x000001B900000000#64 0xAC44#64 ∧
  decodeWord 0x23FB999999999999A0000000000000000#132 = .ratio 0x3FB999999999999A#64 0#64 ∧
  decodeWord 0xBFFFFFFFFFFFFFFFFFFFFFFFFFFFFFFFF#132 = .next 0xFFFFFFFFFFFFFFFF#64 0xFFFFFFFFFFFFFFFF#64 ∧
  decodeWord 0#132 = .reserved0 0#64 0#64

/-- Decoding the word of a command gives it back, every operand bit included. -/
def Obligations.DecodeOfEncode : Prop := ∀ i : Instr, decodeWord (encode i) = i

/-- Encoding the command of a word gives the word back: every one of the 2^132 words is the word of one command. -/
def Obligations.EncodeOfDecode : Prop := ∀ v : CmdWord, encode (decodeWord v) = v

/-- R50: decoding is total and uses `op` alone. -/
def Obligations.DecodingUsesTheOpcodeAlone : Prop :=
  ∀ (op : Opcode) (a b : Bus),
    (decode op a b).opcode = op ∧ (decode op a b).opA = a ∧ (decode op a b).opB = b

/-- R43, S6: a command does what its canonical form does, whose ignored fields are 0. -/
def Obligations.IgnoredFieldsHaveNoEffect : Prop :=
  ∀ (i : Instr) (s : State), exec i s = exec (i.canonical s.width.n) s

/-! ## The clock edge (spec/10_state.md, spec/70_reset_and_hazards.md) -/

/-- A step runs the decoded command: where a command is accepted, the edge is `exec` of it with the strobes of the cycle
starting at 0, and then the inputs move on by one edge. -/
def Obligations.StepRunsThePresentedCommand : Prop :=
  ∀ (w : Width) (c : Phacc w.n) (i : Instr), c.pins.rst = false → c.pins.cmdValid = true →
    decode c.pins.cmdOp c.pins.cmdA c.pins.cmdB = i →
    ∃ c' : Phacc w.n,
      exec i (State.mk w { c with freqTaken := false, shiftTaken := false }) = .next (State.mk w c') ∧
      step (State.mk w c) = .next (State.mk w { c' with inputs := c'.inputs.tail })

/-- R78: reset, whatever else is on the pins. The model's own, not R78's: the strobe records at 0 (log entry 4, DEDUCED),
the counters of free values left as they are (log entry 5, DESIGN CHOICE) and the list of inputs (log entry 3). -/
def Obligations.ResetEdgeClearsEveryRegister : Prop :=
  ∀ (w : Width) (c : Phacc w.n), c.pins.rst = true →
    (c.cmdReady = false ∧ c.freqTake = false ∧ c.shiftTake = false) ∧
    step (State.mk w c) = .next (State.mk w
      { phase := 0, rspValid := false, rspData := 0, rspFlag := false, rspErr := false, freqTaken := false,
        shiftTaken := false, inputs := c.inputs.tail, rateDraws := c.rateDraws, offsetDraws := c.offsetDraws })

/-- R21, R76, R77: an edge without a command clears RSP_VALID alone, of the block's registers. The model's own: the strobe
records at 0 (log entry 4, DEDUCED), and the list of inputs, idle where it is empty (log entry 3, DESIGN CHOICE). -/
def Obligations.IdleEdgeClearsOnlyValid : Prop :=
  ∀ (w : Width) (c : Phacc w.n), c.pins.rst = false → c.pins.cmdValid = false →
    step (State.mk w c) = .next (State.mk w
      { c with rspValid := false, freqTaken := false, shiftTaken := false, inputs := c.inputs.tail })

/-- R80: over any number of idle cycles PHASE and the response stay, with `rsp_valid` at 0. -/
def Obligations.IdleCyclesHoldTheResponse : Prop :=
  ∀ (w : Width) (c : Phacc w.n) (k : Nat),
    (∀ p ∈ c.inputs.take k, p.rst = false ∧ p.cmdValid = false) → 0 < k →
    ∃ c' : Phacc w.n, after k (State.mk w c) = .next (State.mk w c') ∧
      c'.phase = c.phase ∧ c'.rspData = c.rspData ∧ c'.rspFlag = c.rspFlag ∧ c'.rspErr = c.rspErr ∧
      c'.rspValid = false ∧ c'.inputs = c.inputs.drop k

/-- R28: the reset values of every register. -/
def Obligations.ResetValues : Prop :=
  State.reset.chip.phase = 0 ∧ State.reset.chip.rspValid = false ∧ State.reset.chip.rspData = 0 ∧
  State.reset.chip.rspFlag = false ∧ State.reset.chip.rspErr = false

/-- R68, R77: every edge answers a next state, at the same width, and RSP_VALID is 1 just after it exactly where it
accepted a command. -/
def Obligations.EveryEdgeCompletes : Prop :=
  ∀ (w : Width) (c : Phacc w.n), ∃ c' : Phacc w.n,
    step (State.mk w c) = .next (State.mk w c') ∧ c'.rspValid = c.accept ∧ c'.inputs = c.inputs.tail

/-- R22, R24: the strobes that the readings of an edge assert are the combinational `freq_take` and `shift_take` of its
cycle. The records of those readings in State are the model's own (log entry 4, DEDUCED). -/
def Obligations.ReadingsMatchTheStrobes : Prop :=
  ∀ (w : Width) (c : Phacc w.n), ∃ c' : Phacc w.n,
    step (State.mk w c) = .next (State.mk w c') ∧ c'.freqTaken = c.freqTake ∧ c'.shiftTaken = c.shiftTake

/-- R23: a value presented on a policy port while its take strobe is 0 has no effect. -/
def Obligations.UnreadPolicyValueHasNoEffect : Prop :=
  ∀ (w : Width) (c : Phacc w.n) (p : Pins w.n) (rest : List (Pins w.n)) (v : PortValue w.n), c.inputs = p :: rest →
    (c.freqTake = false →
      step (State.mk w { c with inputs := { p with freqRate := v } :: rest }) = step (State.mk w c)) ∧
    (c.shiftTake = false →
      step (State.mk w { c with inputs := { p with shiftOff := v } :: rest }) = step (State.mk w c))

/-- R20: while `cmd_valid` is 0 or `rst` is 1, what is on `cmd_op`, `cmd_a` and `cmd_b` has no effect. -/
def Obligations.UnacceptedCommandHasNoEffect : Prop :=
  ∀ (w : Width) (c : Phacc w.n) (p : Pins w.n) (rest : List (Pins w.n)) (op : Opcode) (a b : Bus),
    c.inputs = p :: rest → c.accept = false →
    step (State.mk w { c with inputs := { p with cmdOp := op, cmdA := a, cmdB := b } :: rest }) = step (State.mk w c)

/-- R73: PHASE changes only on NEXT, INIT and reset. -/
def Obligations.PhaseChangesOnlyOnNextInitReset : Prop :=
  ∀ (w : Width) (c c' : Phacc w.n), step (State.mk w c) = .next (State.mk w c') → c'.phase ≠ c.phase →
    c.pins.rst = true ∨ (c.accept = true ∧ (c.pins.cmdOp = 0xB#4 ∨ c.pins.cmdOp = 0xA#4))

/-- R34: every command that reads no policy port is idempotent: repeated with the same operands, it gives the same result
and changes nothing more. -/
def Obligations.CommandsWithoutPolicyAreIdempotent : Prop :=
  ∀ (i : Instr) (s : State), readsPolicy i = false → ∃ t : State, exec i s = .next t ∧ exec i t = .next t

/-- R25 with R19, R55, R66 (a flag of 1 comes with data 1) and R69 (an error response has data 0 and flag 0), kept by every
edge. -/
def Obligations.StepKeepsTheInvariant : Prop :=
  ∀ s t : State, StateInv s → step s = .next t → StateInv t

/-- The invariant holds right after reset. -/
def Obligations.ResetHasTheInvariant : Prop := StateInv State.reset

/-- R87: a run has one response for each accepted command. Edges past the end of the list of inputs accept none: the host
is then idle by the model's choice (log entry 3, DESIGN CHOICE). -/
def Obligations.OneResponsePerAcceptedCommand : Prop :=
  ∀ (w : Width) (c : Phacc w.n) (n k : Nat),
    (observe n k (State.mk w c)).responses.length =
      ((c.inputs.take n).filter fun p => !p.rst && p.cmdValid).length

/-- R87, R24: a run's invocations are those that R24's table gives the commands accepted at its edges, numbered from `k`
in order, and its PHASE is the one after the last edge. Edges past the end of the list of inputs invoke nothing (log entry
3, DESIGN CHOICE). -/
def Obligations.ObservationListsInvocationsAndPhase : Prop :=
  ∀ (w : Width) (c : Phacc w.n) (n k : Nat),
    (observe n k (State.mk w c)).invocations = invocationsOf k (c.inputs.take n) ∧
    ∃ c' : Phacc w.n, after n (State.mk w c) = .next (State.mk w c') ∧
      (observe n k (State.mk w c)).phase = c'.phase.toNat

/-! ## Placing a command from outside -/

/-- The command word that is placed on the command port is the next command that runs. -/
def Obligations.PlacedWordIsTheNextCommand : Prop :=
  ∀ (i : Instr) (s : State),
    decodeTableWord 136 (encode i).toNat = some i ∧
    (s.withFetchWord 136 (encode i).toNat).chip.accept = true ∧
    (s.withFetchWord 136 (encode i).toNat).chip.presented = i

/-- R48: a decimal number in a UQm.n operand becomes `rnd(d · 2^n)`, refused where that does not fit the format; that the
rounded value is the one that must fit is the model's choice (log entry 9, DESIGN CHOICE). A period of 0 is refused (P2 of
spec/95_test_vectors.md for PERN; for PERS log entry 9, DEDUCED). -/
def Obligations.AssembledFixedPointIsRounded : Prop :=
  ∀ (n : Nat) (q : Frac), 0 < q.den →
    (Asm.Literal.dec q).field (.uq n) =
      (if 0 ≤ rnd ((q.num : ℚ) / q.den * 2 ^ n) ∧ rnd ((q.num : ℚ) / q.den * 2 ^ n) < 2 ^ 64
       then some (BitVec.ofInt 64 (rnd ((q.num : ℚ) / q.den * 2 ^ n))) else none) ∧
    (Asm.Literal.dec q).field (.period n) =
      if (q.num : ℚ) / q.den = 0 then none else (Asm.Literal.dec q).field (.uq n)
end

