-- ==== Sys2Proof/Laws/State.lean ====
section
/-! SUPPORT. One lemma per field and update of a block: what each shared operation writes, and what it leaves. -/

namespace Sys2Proof.Machine

variable {N : Nat} (c : Phacc N)

/-! ## setPhase -/

@[simp] theorem Phacc.setPhase_phase (v : BitVec N) : (c.setPhase v).phase = v := rfl
@[simp] theorem Phacc.setPhase_rspValid (v : BitVec N) : (c.setPhase v).rspValid = c.rspValid := rfl
@[simp] theorem Phacc.setPhase_rspData (v : BitVec N) : (c.setPhase v).rspData = c.rspData := rfl
@[simp] theorem Phacc.setPhase_rspFlag (v : BitVec N) : (c.setPhase v).rspFlag = c.rspFlag := rfl
@[simp] theorem Phacc.setPhase_rspErr (v : BitVec N) : (c.setPhase v).rspErr = c.rspErr := rfl
@[simp] theorem Phacc.setPhase_freqTaken (v : BitVec N) : (c.setPhase v).freqTaken = c.freqTaken := rfl
@[simp] theorem Phacc.setPhase_shiftTaken (v : BitVec N) : (c.setPhase v).shiftTaken = c.shiftTaken := rfl
@[simp] theorem Phacc.setPhase_inputs (v : BitVec N) : (c.setPhase v).inputs = c.inputs := rfl
@[simp] theorem Phacc.setPhase_rateDraws (v : BitVec N) : (c.setPhase v).rateDraws = c.rateDraws := rfl
@[simp] theorem Phacc.setPhase_offsetDraws (v : BitVec N) : (c.setPhase v).offsetDraws = c.offsetDraws := rfl
@[simp] theorem Phacc.setPhase_pins (v : BitVec N) : (c.setPhase v).pins = c.pins := rfl

/-! ## respond -/

@[simp] theorem Phacc.respond_phase (d : Bus) (f : Bool) : (c.respond d f).phase = c.phase := rfl
@[simp] theorem Phacc.respond_rspValid (d : Bus) (f : Bool) : (c.respond d f).rspValid = true := rfl
@[simp] theorem Phacc.respond_rspData (d : Bus) (f : Bool) : (c.respond d f).rspData = d := rfl
@[simp] theorem Phacc.respond_rspFlag (d : Bus) (f : Bool) : (c.respond d f).rspFlag = f := rfl
@[simp] theorem Phacc.respond_rspErr (d : Bus) (f : Bool) : (c.respond d f).rspErr = false := rfl
@[simp] theorem Phacc.respond_freqTaken (d : Bus) (f : Bool) : (c.respond d f).freqTaken = c.freqTaken := rfl
@[simp] theorem Phacc.respond_shiftTaken (d : Bus) (f : Bool) : (c.respond d f).shiftTaken = c.shiftTaken := rfl
@[simp] theorem Phacc.respond_inputs (d : Bus) (f : Bool) : (c.respond d f).inputs = c.inputs := rfl
@[simp] theorem Phacc.respond_rateDraws (d : Bus) (f : Bool) : (c.respond d f).rateDraws = c.rateDraws := rfl
@[simp] theorem Phacc.respond_offsetDraws (d : Bus) (f : Bool) : (c.respond d f).offsetDraws = c.offsetDraws := rfl
@[simp] theorem Phacc.respond_pins (d : Bus) (f : Bool) : (c.respond d f).pins = c.pins := rfl

/-! ## respondPhase -/

@[simp] theorem Phacc.respondPhase_phase (r : BitVec N) : (c.respondPhase r).phase = c.phase := rfl
@[simp] theorem Phacc.respondPhase_rspValid (r : BitVec N) : (c.respondPhase r).rspValid = true := rfl
@[simp] theorem Phacc.respondPhase_rspData (r : BitVec N) : (c.respondPhase r).rspData = r.setWidth 64 := rfl
@[simp] theorem Phacc.respondPhase_rspFlag (r : BitVec N) : (c.respondPhase r).rspFlag = false := rfl
@[simp] theorem Phacc.respondPhase_rspErr (r : BitVec N) : (c.respondPhase r).rspErr = false := rfl
@[simp] theorem Phacc.respondPhase_freqTaken (r : BitVec N) : (c.respondPhase r).freqTaken = c.freqTaken := rfl
@[simp] theorem Phacc.respondPhase_shiftTaken (r : BitVec N) : (c.respondPhase r).shiftTaken = c.shiftTaken := rfl
@[simp] theorem Phacc.respondPhase_inputs (r : BitVec N) : (c.respondPhase r).inputs = c.inputs := rfl
@[simp] theorem Phacc.respondPhase_rateDraws (r : BitVec N) : (c.respondPhase r).rateDraws = c.rateDraws := rfl
@[simp] theorem Phacc.respondPhase_offsetDraws (r : BitVec N) : (c.respondPhase r).offsetDraws = c.offsetDraws := rfl
@[simp] theorem Phacc.respondPhase_pins (r : BitVec N) : (c.respondPhase r).pins = c.pins := rfl

/-! ## respondErr -/

@[simp] theorem Phacc.respondErr_phase : (c.respondErr).phase = c.phase := rfl
@[simp] theorem Phacc.respondErr_rspValid : (c.respondErr).rspValid = true := rfl
@[simp] theorem Phacc.respondErr_rspData : (c.respondErr).rspData = 0 := rfl
@[simp] theorem Phacc.respondErr_rspFlag : (c.respondErr).rspFlag = false := rfl
@[simp] theorem Phacc.respondErr_rspErr : (c.respondErr).rspErr = true := rfl
@[simp] theorem Phacc.respondErr_freqTaken : (c.respondErr).freqTaken = c.freqTaken := rfl
@[simp] theorem Phacc.respondErr_shiftTaken : (c.respondErr).shiftTaken = c.shiftTaken := rfl
@[simp] theorem Phacc.respondErr_inputs : (c.respondErr).inputs = c.inputs := rfl
@[simp] theorem Phacc.respondErr_rateDraws : (c.respondErr).rateDraws = c.rateDraws := rfl
@[simp] theorem Phacc.respondErr_offsetDraws : (c.respondErr).offsetDraws = c.offsetDraws := rfl
@[simp] theorem Phacc.respondErr_pins : (c.respondErr).pins = c.pins := rfl

/-! ## takeRate -/

@[simp] theorem Phacc.takeRate_phase : (c.takeRate).phase = c.phase := rfl
@[simp] theorem Phacc.takeRate_rspValid : (c.takeRate).rspValid = c.rspValid := rfl
@[simp] theorem Phacc.takeRate_rspData : (c.takeRate).rspData = c.rspData := rfl
@[simp] theorem Phacc.takeRate_rspFlag : (c.takeRate).rspFlag = c.rspFlag := rfl
@[simp] theorem Phacc.takeRate_rspErr : (c.takeRate).rspErr = c.rspErr := rfl
@[simp] theorem Phacc.takeRate_freqTaken : (c.takeRate).freqTaken = true := rfl
@[simp] theorem Phacc.takeRate_shiftTaken : (c.takeRate).shiftTaken = c.shiftTaken := rfl
@[simp] theorem Phacc.takeRate_inputs : (c.takeRate).inputs = c.inputs := rfl
@[simp] theorem Phacc.takeRate_rateDraws : (c.takeRate).rateDraws = c.rateDraws + c.pins.freqRate.draws := rfl
@[simp] theorem Phacc.takeRate_offsetDraws : (c.takeRate).offsetDraws = c.offsetDraws := rfl
@[simp] theorem Phacc.takeRate_pins : (c.takeRate).pins = c.pins := rfl

/-! ## takeOffset -/

@[simp] theorem Phacc.takeOffset_phase : (c.takeOffset).phase = c.phase := rfl
@[simp] theorem Phacc.takeOffset_rspValid : (c.takeOffset).rspValid = c.rspValid := rfl
@[simp] theorem Phacc.takeOffset_rspData : (c.takeOffset).rspData = c.rspData := rfl
@[simp] theorem Phacc.takeOffset_rspFlag : (c.takeOffset).rspFlag = c.rspFlag := rfl
@[simp] theorem Phacc.takeOffset_rspErr : (c.takeOffset).rspErr = c.rspErr := rfl
@[simp] theorem Phacc.takeOffset_freqTaken : (c.takeOffset).freqTaken = c.freqTaken := rfl
@[simp] theorem Phacc.takeOffset_shiftTaken : (c.takeOffset).shiftTaken = true := rfl
@[simp] theorem Phacc.takeOffset_inputs : (c.takeOffset).inputs = c.inputs := rfl
@[simp] theorem Phacc.takeOffset_rateDraws : (c.takeOffset).rateDraws = c.rateDraws := rfl
@[simp] theorem Phacc.takeOffset_offsetDraws :
    (c.takeOffset).offsetDraws =
      c.offsetDraws + c.pins.shiftOff.draws := rfl
@[simp] theorem Phacc.takeOffset_pins : (c.takeOffset).pins = c.pins := rfl

/-! ## beginEdge -/

@[simp] theorem Phacc.beginEdge_phase : (c.beginEdge).phase = c.phase := rfl
@[simp] theorem Phacc.beginEdge_rspValid : (c.beginEdge).rspValid = c.rspValid := rfl
@[simp] theorem Phacc.beginEdge_rspData : (c.beginEdge).rspData = c.rspData := rfl
@[simp] theorem Phacc.beginEdge_rspFlag : (c.beginEdge).rspFlag = c.rspFlag := rfl
@[simp] theorem Phacc.beginEdge_rspErr : (c.beginEdge).rspErr = c.rspErr := rfl
@[simp] theorem Phacc.beginEdge_freqTaken : (c.beginEdge).freqTaken = false := rfl
@[simp] theorem Phacc.beginEdge_shiftTaken : (c.beginEdge).shiftTaken = false := rfl
@[simp] theorem Phacc.beginEdge_inputs : (c.beginEdge).inputs = c.inputs := rfl
@[simp] theorem Phacc.beginEdge_rateDraws : (c.beginEdge).rateDraws = c.rateDraws := rfl
@[simp] theorem Phacc.beginEdge_offsetDraws : (c.beginEdge).offsetDraws = c.offsetDraws := rfl
@[simp] theorem Phacc.beginEdge_pins : (c.beginEdge).pins = c.pins := rfl

/-! ## endEdge -/

@[simp] theorem Phacc.endEdge_phase : (c.endEdge).phase = c.phase := rfl
@[simp] theorem Phacc.endEdge_rspValid : (c.endEdge).rspValid = c.rspValid := rfl
@[simp] theorem Phacc.endEdge_rspData : (c.endEdge).rspData = c.rspData := rfl
@[simp] theorem Phacc.endEdge_rspFlag : (c.endEdge).rspFlag = c.rspFlag := rfl
@[simp] theorem Phacc.endEdge_rspErr : (c.endEdge).rspErr = c.rspErr := rfl
@[simp] theorem Phacc.endEdge_freqTaken : (c.endEdge).freqTaken = c.freqTaken := rfl
@[simp] theorem Phacc.endEdge_shiftTaken : (c.endEdge).shiftTaken = c.shiftTaken := rfl
@[simp] theorem Phacc.endEdge_inputs : (c.endEdge).inputs = c.inputs.tail := rfl
@[simp] theorem Phacc.endEdge_rateDraws : (c.endEdge).rateDraws = c.rateDraws := rfl
@[simp] theorem Phacc.endEdge_offsetDraws : (c.endEdge).offsetDraws = c.offsetDraws := rfl

/-! ## resetRegs -/

@[simp] theorem Phacc.resetRegs_phase : (c.resetRegs).phase = 0 := rfl
@[simp] theorem Phacc.resetRegs_rspValid : (c.resetRegs).rspValid = false := rfl
@[simp] theorem Phacc.resetRegs_rspData : (c.resetRegs).rspData = 0 := rfl
@[simp] theorem Phacc.resetRegs_rspFlag : (c.resetRegs).rspFlag = false := rfl
@[simp] theorem Phacc.resetRegs_rspErr : (c.resetRegs).rspErr = false := rfl
@[simp] theorem Phacc.resetRegs_freqTaken : (c.resetRegs).freqTaken = c.freqTaken := rfl
@[simp] theorem Phacc.resetRegs_shiftTaken : (c.resetRegs).shiftTaken = c.shiftTaken := rfl
@[simp] theorem Phacc.resetRegs_inputs : (c.resetRegs).inputs = c.inputs := rfl
@[simp] theorem Phacc.resetRegs_rateDraws : (c.resetRegs).rateDraws = c.rateDraws := rfl
@[simp] theorem Phacc.resetRegs_offsetDraws : (c.resetRegs).offsetDraws = c.offsetDraws := rfl
@[simp] theorem Phacc.resetRegs_pins : (c.resetRegs).pins = c.pins := rfl

/-! ## idleRegs -/

@[simp] theorem Phacc.idleRegs_phase : (c.idleRegs).phase = c.phase := rfl
@[simp] theorem Phacc.idleRegs_rspValid : (c.idleRegs).rspValid = false := rfl
@[simp] theorem Phacc.idleRegs_rspData : (c.idleRegs).rspData = c.rspData := rfl
@[simp] theorem Phacc.idleRegs_rspFlag : (c.idleRegs).rspFlag = c.rspFlag := rfl
@[simp] theorem Phacc.idleRegs_rspErr : (c.idleRegs).rspErr = c.rspErr := rfl
@[simp] theorem Phacc.idleRegs_freqTaken : (c.idleRegs).freqTaken = c.freqTaken := rfl
@[simp] theorem Phacc.idleRegs_shiftTaken : (c.idleRegs).shiftTaken = c.shiftTaken := rfl
@[simp] theorem Phacc.idleRegs_inputs : (c.idleRegs).inputs = c.inputs := rfl
@[simp] theorem Phacc.idleRegs_rateDraws : (c.idleRegs).rateDraws = c.rateDraws := rfl
@[simp] theorem Phacc.idleRegs_offsetDraws : (c.idleRegs).offsetDraws = c.offsetDraws := rfl
@[simp] theorem Phacc.idleRegs_pins : (c.idleRegs).pins = c.pins := rfl

/-! ## present -/

@[simp] theorem Phacc.present_phase (v : CmdWord) : (c.present v).phase = c.phase := rfl
@[simp] theorem Phacc.present_rspValid (v : CmdWord) : (c.present v).rspValid = c.rspValid := rfl
@[simp] theorem Phacc.present_rspData (v : CmdWord) : (c.present v).rspData = c.rspData := rfl
@[simp] theorem Phacc.present_rspFlag (v : CmdWord) : (c.present v).rspFlag = c.rspFlag := rfl
@[simp] theorem Phacc.present_rspErr (v : CmdWord) : (c.present v).rspErr = c.rspErr := rfl
@[simp] theorem Phacc.present_freqTaken (v : CmdWord) : (c.present v).freqTaken = c.freqTaken := rfl
@[simp] theorem Phacc.present_shiftTaken (v : CmdWord) : (c.present v).shiftTaken = c.shiftTaken := rfl
@[simp] theorem Phacc.present_inputs (v : CmdWord) :
    (c.present v).inputs =
      { c.pins with rst := false, cmdValid := true, cmdOp := v.op, cmdA := v.a, cmdB := v.b } :: c.inputs.tail := rfl
@[simp] theorem Phacc.present_rateDraws (v : CmdWord) : (c.present v).rateDraws = c.rateDraws := rfl
@[simp] theorem Phacc.present_offsetDraws (v : CmdWord) : (c.present v).offsetDraws = c.offsetDraws := rfl

end Sys2Proof.Machine
end

