-- ==== Sys2Proof/Laws/Ops.lean ====
section
/-! SUPPORT. One spec lemma per shared operation: readings of a port, responses, rounding, operands and flags. -/

namespace Sys2Proof.Machine

variable {N : Nat}

/-! ## The policy ports -/

@[simp] theorem PortValue.read_settled (v : BitVec N) (free : BitVec 64) :
    (PortValue.settled v).read free = v := rfl

@[simp] theorem PortValue.draws_settled (v : BitVec N) : (PortValue.settled v).draws = 0 := rfl

@[simp] theorem PortValue.draws_unsettled : (PortValue.unsettled : PortValue N).draws = 1 := rfl

/-- An invocation of the frequency policy returns the settled value. -/
theorem Phacc.rate_of_settled {c : Phacc N} {v : BitVec N} (h : c.pins.freqRate = .settled v) : c.rate = v := by
  simp [Phacc.rate, h]

/-- An invocation of the shift policy returns the settled value. -/
theorem Phacc.offset_of_settled {c : Phacc N} {v : BitVec N} (h : c.pins.shiftOff = .settled v) : c.offset = v := by
  simp [Phacc.offset, h]

/-! ## Responses -/

/-- The response to a command that encodes x cycles is one of two. -/
theorem Phacc.respondCycles_cases (c : Phacc N) (x : Option Frac) :
    (∃ q, x = some q ∧ c.respondCycles x = c.respondPhase (encFrac N q)) ∨
    (x = none ∧ c.respondCycles x = c.respondErr) := by
  cases x with
  | none => exact .inr ⟨rfl, rfl⟩
  | some q => exact .inl ⟨q, rfl, rfl⟩

@[simp] theorem State.complete_eq (s : State) (c : Phacc s.width.n) : s.complete c = .next { s with chip := c } := rfl

@[simp] theorem Result.endEdge_next (w : Width) (c : Phacc w.n) :
    Result.endEdge (.next (State.mk w c)) = .next (State.mk w c.endEdge) := rfl

/-! ## Rounding -/

/-- What `rndDiv n d` is: the integer k with k·2d ≤ 2n + d < (k + 1)·2d. -/
theorem rndDiv_bounds (n : Int) {d : Nat} (hd : 0 < d) :
    rndDiv n d * (2 * d) ≤ 2 * n + d ∧ 2 * n + d < (rndDiv n d + 1) * (2 * d) := by
  have hpos : (0 : Int) < 2 * d := by omega
  exact ⟨Int.ediv_mul_le _ hpos.ne', Int.lt_ediv_add_one_mul_self _ hpos⟩

@[simp] theorem pow2_eq (k : Nat) : pow2 k = 2 ^ k := by simp [pow2, Nat.shiftLeft_eq]

/-! ## Operands and flags -/

@[simp] theorem phaseOperand_toNat (v : Bus) : (phaseOperand N v).toNat = v.toNat % 2 ^ N := by simp [phaseOperand]

theorem sampleRate_eq (b : Bus) : sampleRate b = b.toNat % 2 ^ 32 := by simp [sampleRate]

theorem phaseLt_iff (a b : BitVec N) : phaseLt a b = true ↔ a.toNat < b.toNat := by simp [phaseLt]

/-- A phase value of at most 64 bits loses nothing as response data. -/
theorem toNat_setWidth_bus (w : Width) (r : BitVec w.n) : (r.setWidth 64).toNat = r.toNat := by
  rw [BitVec.toNat_setWidth, Nat.mod_eq_of_lt]
  exact lt_of_lt_of_le r.isLt (Nat.pow_le_pow_right (by decide) w.le)

end Sys2Proof.Machine
end

