-- ==== Sys2Proof/Laws/Exec.lean ====
section
/-! SUPPORT. What every command has in common, and what an edge does, each said once. -/

namespace Sys2Proof.Machine

/-- Every meaning completes with a response, at the same width, and leaves the inputs for the edge to move on. -/
theorem exec_completes (i : Instr) (w : Width) (c : Phacc w.n) :
    ∃ c' : Phacc w.n, exec i (State.mk w c) = .next (State.mk w c') ∧ c'.rspValid = true ∧ c'.inputs = c.inputs := by
  cases i
  case ratio a b => rcases c.respondCycles_cases (ratioCycles a) with ⟨q, _, h⟩ | ⟨_, h⟩ <;>
    exact ⟨_, rfl, by simp [h], by simp [h]⟩
  case freq a b => rcases c.respondCycles_cases (freqCycles a b) with ⟨q, _, h⟩ | ⟨_, h⟩ <;>
    exact ⟨_, rfl, by simp [h], by simp [h]⟩
  case pers a b => rcases c.respondCycles_cases (persCycles a b) with ⟨q, _, h⟩ | ⟨_, h⟩ <;>
    exact ⟨_, rfl, by simp [h], by simp [h]⟩
  case pern a b => rcases c.respondCycles_cases (pernCycles a) with ⟨q, _, h⟩ | ⟨_, h⟩ <;>
    exact ⟨_, rfl, by simp [h], by simp [h]⟩
  all_goals exact ⟨_, rfl, rfl, rfl⟩

/-- The reset branch of an edge. -/
theorem step_of_reset {w : Width} {c : Phacc w.n} (hr : c.pins.rst = true) :
    step (State.mk w c) = .next (State.mk w c.beginEdge.resetRegs.endEdge) := by
  simp [step, hr]

/-- The accept branch of an edge. -/
theorem step_of_accept {w : Width} {c : Phacc w.n} (hr : c.pins.rst = false) (hv : c.pins.cmdValid = true) :
    step (State.mk w c) = Result.endEdge (exec c.presented (State.mk w c.beginEdge)) := by
  simp [step, hr, hv, Phacc.presented]

/-- The idle branch of an edge. -/
theorem step_of_idle {w : Width} {c : Phacc w.n} (hr : c.pins.rst = false) (hv : c.pins.cmdValid = false) :
    step (State.mk w c) = .next (State.mk w c.beginEdge.idleRegs.endEdge) := by
  simp [step, hr, hv]

end Sys2Proof.Machine
end

