-- ==== Sys2Proof/Laws/PerInstr.lean ====
section
/-! SUPPORT. Statements about every command as syntax, one lemma per constructor: the canonical form of a command is
well-formed, and a well-formed command is its own canonical form (spec/30_encoding.md R43). -/

namespace Sys2Proof.Laws

theorem upperZero_keepLow {k : Nat} (v : Bus) : upperZero k (keepLow k v) = true := by
  simp only [upperZero, keepLow, BitVec.toNat_setWidth, decide_eq_true_eq]
  exact lt_of_le_of_lt (Nat.mod_le _ _) (Nat.mod_lt _ (by positivity))

theorem keepLow_eq_self {k : Nat} {v : Bus} (h : upperZero k v = true) : keepLow k v = v := by
  simp only [upperZero, decide_eq_true_eq] at h
  apply BitVec.eq_of_toNat_eq
  simp [keepLow, BitVec.toNat_setWidth, Nat.mod_eq_of_lt h, Nat.mod_eq_of_lt v.isLt]

theorem eq_zero_of_unusedZero {v : Bus} (h : unusedZero v = true) : v = 0 := by simpa [unusedZero] using h

end Sys2Proof.Laws

namespace Sys2Proof.Laws.Canonical

/-- At every width, the canonical form is well-formed, and a well-formed command is its own canonical form. -/
def Statement (i : Instr) : Prop :=
  ∀ N : Nat, (i.canonical N).wellFormed N = true ∧ (i.wellFormed N = true → i.canonical N = i)

/-- A command of which neither bus is read. -/
theorem both_unused {a b : Bus} {f : Bus → Bus → Instr} (h : (unusedZero a && unusedZero b) = true) : f 0 0 = f a b := by
  rw [Bool.and_eq_true] at h
  rw [eq_zero_of_unusedZero h.1, eq_zero_of_unusedZero h.2]

/-- A command that reads two N-bit phase values. -/
theorem both_phase {N : Nat} {a b : Bus} {f : Bus → Bus → Instr} (h : (upperZero N a && upperZero N b) = true) :
    f (keepLow N a) (keepLow N b) = f a b := by
  rw [Bool.and_eq_true] at h
  rw [keepLow_eq_self h.1, keepLow_eq_self h.2]

/-- A command that reads all of A and nothing of B. -/
theorem second_unused {a b : Bus} {f : Bus → Bus → Instr} (h : unusedZero b = true) : f a 0 = f a b := by
  rw [eq_zero_of_unusedZero h]

theorem reserved0 (a b : Bus) : Statement (.reserved0 a b) := fun _ => ⟨rfl, both_unused⟩
theorem int (a b : Bus) : Statement (.int a b) := fun N =>
  ⟨by simp [Instr.canonical, Instr.wellFormed, upperZero_keepLow, unusedZero], fun h => by
    simp only [Instr.wellFormed, Bool.and_eq_true] at h
    simp only [Instr.canonical, keepLow_eq_self h.1, eq_zero_of_unusedZero h.2]⟩
theorem ratio (a b : Bus) : Statement (.ratio a b) := fun _ => ⟨rfl, second_unused⟩
theorem add (a b : Bus) : Statement (.add a b) := fun N =>
  ⟨by simp [Instr.canonical, Instr.wellFormed, upperZero_keepLow], both_phase⟩
theorem sub (a b : Bus) : Statement (.sub a b) := fun N =>
  ⟨by simp [Instr.canonical, Instr.wellFormed, upperZero_keepLow], both_phase⟩
theorem cmp (a b : Bus) : Statement (.cmp a b) := fun N =>
  ⟨by simp [Instr.canonical, Instr.wellFormed, upperZero_keepLow], both_phase⟩
theorem freq (a b : Bus) : Statement (.freq a b) := fun _ =>
  ⟨upperZero_keepLow b, fun h => by simp only [Instr.canonical, keepLow_eq_self h]⟩
theorem pers (a b : Bus) : Statement (.pers a b) := fun _ =>
  ⟨upperZero_keepLow b, fun h => by simp only [Instr.canonical, keepLow_eq_self h]⟩
theorem pern (a b : Bus) : Statement (.pern a b) := fun _ => ⟨rfl, second_unused⟩
theorem rad (a b : Bus) : Statement (.rad a b) := fun _ => ⟨rfl, second_unused⟩
theorem init (a b : Bus) : Statement (.init a b) := fun _ => ⟨rfl, both_unused⟩
theorem next (a b : Bus) : Statement (.next a b) := fun _ => ⟨rfl, both_unused⟩
theorem get (a b : Bus) : Statement (.get a b) := fun _ => ⟨rfl, both_unused⟩
theorem isstart (a b : Bus) : Statement (.isstart a b) := fun _ => ⟨rfl, both_unused⟩
theorem reservedE (a b : Bus) : Statement (.reservedE a b) := fun _ => ⟨rfl, both_unused⟩
theorem reservedF (a b : Bus) : Statement (.reservedF a b) := fun _ => ⟨rfl, both_unused⟩

end Sys2Proof.Laws.Canonical
end

