-- ==== Sys2Proof/Tests/Slice0.lean ====
section
/-! SUPPORT. Tests. Every expected value is a vector or an example of spec/95_test_vectors.md, an example of a rule, or a
command word written out from spec/30_encoding.md R42 and R44; the comment or the name says which. The last part shows, for
every statement with hypotheses, concrete values that meet them. -/

namespace Sys2Proof.Tests

open Sys2Proof.Machine Sys2Proof.Claims

/-! ## Helpers -/

def w1 : Width := ⟨1, by decide, by decide⟩
def w2 : Width := ⟨2, by decide, by decide⟩
def w8 : Width := ⟨8, by decide, by decide⟩
def w32 : Width := ⟨32, by decide, by decide⟩
def w64 : Width := ⟨64, by decide, by decide⟩

/-- Pins that present a command, with the two policy values. -/
def pins {N : Nat} (op : Opcode) (a b : Bus) (fr so : BitVec N) : Pins N :=
  { rst := false, cmdValid := true, cmdOp := op, cmdA := a, cmdB := b, freqRate := .settled fr, shiftOff := .settled so }

/-- A block after reset but for PHASE and the coming inputs. -/
def chip {N : Nat} (phase : BitVec N) (inputs : List (Pins N)) : Phacc N :=
  { Phacc.afterReset N with phase := phase, inputs := inputs }

/-- The columns R, F, E, PH, ft, st of the vectors: what is seen after a command. -/
structure Seen where
  r : Nat
  f : Bool
  e : Bool
  ph : Nat
  ft : Bool
  st : Bool
deriving DecidableEq, Repr

/-- What is seen after an edge. -/
def seen (r : Result) : Option Seen :=
  match r with
  | .next t => some ⟨t.chip.rspData.toNat, t.chip.rspFlag, t.chip.rspErr, t.chip.phase.toNat, t.chip.freqTaken, t.chip.shiftTaken⟩
  | .fault _ => none
  | .refused _ => none

/-- One accepting edge: the command `op:a:b` at width w, from a phase, with fr and so on the ports. -/
def run (w : Width) (op : Opcode) (a b : Bus) (phase : BitVec w.n := 0) (fr : BitVec w.n := 0) (so : BitVec w.n := 0) :
    Option Seen :=
  seen (step (State.mk w (chip phase [pins op a b fr so])))

/-- A response R with flag F and no error, where PHASE is 0 and no policy is invoked. -/
def ok (r : Nat) (f : Bool := false) : Option Seen := some ⟨r, f, false, 0, false, false⟩

/-- The error response, where PHASE is 0. -/
def err : Option Seen := some ⟨0, false, true, 0, false, false⟩

/-! ## WellFormed: each check refuses an ill-formed term (R43) -/

theorem test_wf_int_upper_a : (Instr.int 0x123456789 0).wellFormed 32 = false := by decide
theorem test_wf_int_unused_b : (Instr.int 0x23456789 1).wellFormed 32 = false := by decide
theorem test_wf_int : (Instr.int 0xFFFFFFFF 0).wellFormed 32 = true := by decide
theorem test_wf_ratio_unused_b : (Instr.ratio 0x3FB999999999999A 1).wellFormed 32 = false := by decide
theorem test_wf_add_upper_a : (Instr.add 0x100000000 0).wellFormed 32 = false := by decide
theorem test_wf_add_upper_b : (Instr.add 0 0x100000000).wellFormed 32 = false := by decide
theorem test_wf_sub_upper_b : (Instr.sub 0 0x100).wellFormed 8 = false := by decide
theorem test_wf_cmp_upper_a : (Instr.cmp 0x100 0).wellFormed 8 = false := by decide
theorem test_wf_freq_upper_b : (Instr.freq 0 0xFFFFFFFF0000AC44).wellFormed 32 = false := by decide
theorem test_wf_freq : (Instr.freq 0xFFFFFFFFFFFFFFFF 0xFFFFFFFF).wellFormed 32 = true := by decide
theorem test_wf_pers_upper_b : (Instr.pers 1 0x100000000).wellFormed 32 = false := by decide
theorem test_wf_pern_unused_b : (Instr.pern 1 1).wellFormed 32 = false := by decide
theorem test_wf_rad_unused_b : (Instr.rad 1 1).wellFormed 32 = false := by decide
theorem test_wf_init_unused_a : (Instr.init 1 0).wellFormed 32 = false := by decide
theorem test_wf_next_unused_b : (Instr.next 0 1).wellFormed 32 = false := by decide
theorem test_wf_get_unused_a : (Instr.get 1 0).wellFormed 32 = false := by decide
theorem test_wf_isstart_unused_b : (Instr.isstart 0 1).wellFormed 32 = false := by decide
theorem test_wf_reserved_unused : ((Instr.reserved0 1 0).wellFormed 32 || (Instr.reservedE 0 1).wellFormed 32 ||
    (Instr.reservedF 1 1).wellFormed 32) = false := by decide

/-! ## Decode: every constructor, by a word written out as `{op, A, B}` (R42, R44) -/

theorem test_decode_reserved0 : decodeWord 0x000000000000000000000000000000007#132 = .reserved0 0 7 := by decide
theorem test_decode_int : decodeWord 0x100000001234567890000000000000000#132 = .int 0x123456789 0 := by decide
theorem test_decode_ratio : decodeWord 0x23FB999999999999A0000000000000000#132 = .ratio 0x3FB999999999999A 0 := by decide
theorem test_decode_add : decodeWord 0x300000000FFFFFFFF0000000000000001#132 = .add 0xFFFFFFFF 1 := by decide
theorem test_decode_sub : decodeWord 0x4000000000000001000000000FFFFFFF0#132 = .sub 0x10 0xFFFFFFF0 := by decide
theorem test_decode_cmp : decodeWord 0x500000000000000010000000000000002#132 = .cmp 1 2 := by decide
theorem test_decode_freq : decodeWord 0x6000001B900000000000000000000AC44#132 = .freq 0x000001B900000000 0xAC44 := by decide
theorem test_decode_pers : decodeWord 0x70000028F5C28F5C3000000000000AC44#132 = .pers 0x0000028F5C28F5C3 0xAC44 := by decide
theorem test_decode_pern : decodeWord 0x800000064000000000000000000000000#132 = .pern 0x0000006400000000 0 := by decide
theorem test_decode_rad : decodeWord 0x900000003243F6A890000000000000000#132 = .rad 0x00000003243F6A89 0 := by decide
theorem test_decode_init : decodeWord 0xA00000000000000000000000000000000#132 = .init 0 0 := by decide
theorem test_decode_next : decodeWord 0xBFFFFFFFFFFFFFFFFFFFFFFFFFFFFFFFF#132 = .next 0xFFFFFFFFFFFFFFFF 0xFFFFFFFFFFFFFFFF := by
  decide
theorem test_decode_get : decodeWord 0xC00000000000000000000000000000000#132 = .get 0 0 := by decide
theorem test_decode_isstart : decodeWord 0xD00000000000000000000000000000000#132 = .isstart 0 0 := by decide
theorem test_decode_reservedE : decodeWord 0xEFFFFFFFFFFFFFFFFFFFFFFFFFFFFFFFF#132 =
    .reservedE 0xFFFFFFFFFFFFFFFF 0xFFFFFFFFFFFFFFFF := by decide
theorem test_decode_reservedF : decodeWord 0xF00000000000000000000000000000000#132 = .reservedF 0 0 := by decide

theorem test_encode_freq : encode (.freq 0x000001B900000000 0xAC44) = 0x6000001B900000000000000000000AC44#132 := by decide
theorem test_table_word : decodeTableWord 136 0xB00000000000000000000000000000000 = some (.next 0 0) := by decide
theorem test_table_word_too_wide : decodeTableWord 136 (2 ^ 132) = none ∧ decodeNat (2 ^ 132) = .error .wordTooWide :=
  ⟨by decide, rfl⟩

/-! ## Phase arithmetic (spec/95_test_vectors.md 2.1) -/

theorem test_int_V_INT1 : run w32 0x1 0x123456789 0 = ok 0x23456789 := by decide
theorem test_int_V_INT3 : run w64 0x1 0xFFFFFFFFFFFFFFFF 0 = ok 0xFFFFFFFFFFFFFFFF := by decide
theorem test_ratio_V_RAT1_RAT13 : run w32 0x2 0x3FB999999999999A 0 = ok 0x1999999A ∧
    run w32 0x2 0x3FEFFFFFFF768FA1 0 = ok 0xFFFFFFFC := by decide
theorem test_ratio_ties_V_RAT9_RAT10_subnormal_RAT11_nan_RAT18 : run w32 0x2 0x3DE0000000000000 0 = ok 1 ∧
    run w32 0x2 0xBDE0000000000000 0 = ok 0 ∧ run w32 0x2 1 0 = ok 0 ∧ run w32 0x2 0x7FF0000000000001 0 = err := by decide
theorem test_add_V_ADD1_ADD6 : run w32 0x3 0xFFFFFFFF 1 = ok 0 ∧ run w1 0x3 1 1 = ok 0 := by decide
theorem test_add_V_ADD4_ADD5 : run w32 0x3 0x7FFFFFFF 0x7FFFFFFF = ok 0xFFFFFFFE ∧ run w32 0x3 0x100000005 3 = ok 8 := by decide
theorem test_sub_V_SUB1_SUB2 : run w32 0x4 0 1 = ok 0xFFFFFFFF ∧ run w32 0x4 0x10 0xFFFFFFF0 = ok 0x20 := by decide
theorem test_sub_V_SUB5_SUB6 : run w32 0x4 0 0x028F5C29 = ok 0xFD70A3D7 ∧ run w32 0x4 0 0 = ok 0 := by decide
theorem test_cmp_V_CMP1_CMP2 : run w32 0x5 1 2 = ok 1 true ∧ run w32 0x5 5 5 = ok 2 := by decide
theorem test_cmp_V_CMP3_CMP5 : run w32 0x5 0xFFFFFFFF 0 = ok 4 ∧ run w2 0x5 3 1 = ok 4 := by decide

/-! ## Conversions (2.2) -/

theorem test_freq_V_FRQ1_FRQ7_FRQ12_FRQ14 : run w32 0x6 0x000001B900000000 0xAC44 = ok 0x028F5C29 ∧
    run w32 0x6 0x000001B880000000 0xAC44 = ok 0x028E9DF1 ∧ run w32 0x6 3 2 = ok 2 ∧
    run w32 0x6 0x000001B900000000 0xFFFFFFFF0000AC44 = ok 0x028F5C29 := by decide
theorem test_freq_V_FRQ16_FRQ17 : run w32 0x6 0x000001B900000000 0x100000000 = err ∧
    run w8 0x6 0x000001B900000000 0xAC44 = ok 0x03 ∧ run w64 0x6 0x000001B900000000 0xAC44 = ok 0x028F5C28F5C28F5C := by decide
theorem test_pers_V_PRS1_PRS5_PRS8 : run w32 0x7 0x0000028F5C28F5C3 0xAC44 = ok 0x00949B93 ∧
    run w32 0x7 0x00000000BE37C63B 0xAC44 = ok 0xFFFFFFFF ∧ run w32 0x7 0x0004000000000000 0x80000000 = ok 1 := by decide
theorem test_pers_V_PRS9_PRS10 : run w32 0x7 0 0xAC44 = err ∧ run w32 0x7 0x0000028F5C28F5C3 0 = err := by decide
theorem test_pern_V_PRN2_PRN6_PRN8 : run w32 0x8 0x0000000280000000 0 = ok 0x66666666 ∧
    run w32 0x8 0x00000000C0000000 0 = ok 0x55555555 ∧ run w32 0x8 0xFFFFFFFFFFFFFFFF 0 = ok 1 := by decide
theorem test_pern_V_PRN9_PRN10_PRN11 : run w32 0x8 1 0 = ok 0 ∧ run w32 0x8 0 0 = err ∧
    run w64 0x8 0x0000006400000000 0 = ok 0x028F5C28F5C28F5C := by decide
theorem test_rad_V_RAD2_RAD7_RAD13 : run w32 0x9 0x0000000100000000 0 = ok 0x28BE60DC ∧
    run w32 0x9 0xFFFFFFFF00000000 0 = ok 0xD7419F24 ∧ run w64 0x9 0x0000000100000000 0 = ok 0x28BE60DB9391054A := by decide
theorem test_rad_V_RAD3_RAD11_RAD12 : run w32 0x9 0x00000003243F6A89 0 = ok 0x80000000 ∧
    run w32 0x9 0x7FFFFFFFFFFFFFFF 0 = ok 0xC9C882A5 ∧ run w32 0x9 0x8000000000000000 0 = ok 0x36377D5B := by decide

/-- `INV2PI_K` in decimal (R60). -/
theorem test_inv2piK_R60 : inv2piK = 54157620742477409023451113735280473968 := by decide

/-! ## Accumulator (2.3), reserved opcodes (2.4) -/

theorem test_init_V_INI1 : run w32 0xA 0 0 0x12345678 = some ⟨0, false, false, 0, false, false⟩ := by decide
theorem test_next_V_NXT1_NXT4 :
    run w32 0xB 0 0 0xFFFFFFF0 0x20 0x10 = some ⟨0, false, false, 0x10, true, true⟩ ∧
    run w32 0xB 0 0 0xFFFFFFFF 0xFFFFFFFF 0xFFFFFFFF = some ⟨0xFFFFFFFE, false, false, 0xFFFFFFFE, true, true⟩ := by decide
theorem test_next_V_NXT5_NXT6 :
    run w32 0xB 0xFFFFFFFFFFFFFFFF 0xFFFFFFFFFFFFFFFF 0x40000000 0x10 0 =
      some ⟨0x40000000, false, false, 0x40000010, true, true⟩ ∧
    run w64 0xB 0 0 0xFFFFFFFFFFFFFFFF 2 0 = some ⟨0xFFFFFFFFFFFFFFFF, false, false, 1, true, true⟩ := by decide
theorem test_get_V_GET1 : run w32 0xC 0 0 0x40000000 5 0xC0000000 = some ⟨0, false, false, 0x40000000, false, true⟩ := by decide
theorem test_isstart_V_IST1_IST2 :
    run w32 0xD 0 0 4 0x028F5C29 9 = some ⟨1, true, false, 4, true, false⟩ ∧
    run w32 0xD 0 0 0x028F5C29 0x028F5C29 9 = some ⟨0, false, false, 0x028F5C29, true, false⟩ := by decide
theorem test_isstart_V_IST3_IST5_IST6 :
    run w32 0xD 0 0 0 0 9 = some ⟨0, false, false, 0, true, false⟩ ∧
    run w32 0xD 0 0 0x10000000 0x08000000 = some ⟨0, false, false, 0x10000000, true, false⟩ ∧
    run w32 0xD 0 0 0x10000000 0x20000000 = some ⟨1, true, false, 0x10000000, true, false⟩ := by decide
theorem test_reserved_V_RSV1_RSV2_RSV3 :
    run w32 0x0 0 0 5 7 9 = some ⟨0, false, true, 5, false, false⟩ ∧
    run w32 0xE 0xFFFFFFFFFFFFFFFF 0xFFFFFFFFFFFFFFFF 5 7 9 = some ⟨0, false, true, 5, false, false⟩ ∧
    run w32 0xF 0 0 5 7 9 = some ⟨0, false, true, 5, false, false⟩ := by decide

/-- An unsettled rate is a free value (R83, S3): the fields that the rules fix are as ever, and one value is drawn. -/
theorem test_next_unsettled_rate : ∀ t : State,
    step (State.mk w32 (chip 5 [{ pins 0xB 0 0 0 3 with freqRate := .unsettled }])) = .next t →
    t.chip.rspData = 8 ∧ t.chip.freqTaken = true ∧ t.chip.rateDraws = 1 ∧ t.chip.offsetDraws = 0 := by
  intro t h
  injection h with h
  subst h
  decide

/-! ## Edges (program P5) and the placing of a command -/

/-- P5, edge 1 and edge 8: reset comes before a presented command. -/
theorem test_edge_reset_P5_1 :
    (match step (State.mk w32 { chip 0x10 [{ pins 0xB 0 0 0x10 0 with rst := true }] with rspErr := true, rspData := 7 }) with
      | .next t => decide (t = State.mk w32 (chip 0 []))
      | .fault _ => false
      | .refused _ => false) = true := by decide

/-- P5, edges 6 and 7: after a reserved command, an idle edge clears RSP_VALID and holds data 0 and error 1. -/
theorem test_edge_idle_P5_7 :
    (match after 2 (State.mk w32 (chip 0x10 [pins 0xF 0 0 0 0, Pins.idle 32])) with
      | .next t => decide (t = State.mk w32 { chip 0x10 [] with rspErr := true })
      | .fault _ => false
      | .refused _ => false) = true := by decide

/-- The host's word for GET runs as the first command after reset. -/
theorem test_fetch_word_get :
    seen (step (State.reset.withFetchWord 136 0xC00000000000000000000000000000000)) = some ⟨0, false, false, 0, false, true⟩ := by
  decide

/-- A run with a reserved command is faulted (R69, R87); one with NEXT is not. -/
theorem test_faulted_run :
    Safety.faultedRun 2 (State.mk w32 (chip 0 [pins 0xF 0 0 0 0, pins 0xB 0 0 1 0])) = true ∧
    Safety.faultedRun 2 (State.mk w32 (chip 0 [pins 0xB 0 0 1 0, Pins.idle 32])) = false := by decide

/-! ## The assembler (spec/30_encoding.md R48, R49, spec/95_test_vectors.md P1 to P3) -/

theorem test_asm_P1_freq : Asm.assemble 32 "freq 441, 44100 ; host loads fr".toList =
    some (.command (.freq 0x000001B900000000 0xAC44)) := by decide
theorem test_asm_P3_rad : Asm.assemble 32 "RAD 1.5707963267949".toList =
    some (.command (.rad 0x00000001921FB544 0)) := by decide
theorem test_asm_R52_ratio : Asm.assemble 32 "ratio 0.1".toList = some (.command (.ratio 0x3FB999999999999A 0)) ∧
    Asm.assemble 32 "ratio 0.999999999".toList = some (.command (.ratio 0x3FEFFFFFFF768FA1 0)) := by decide
theorem test_asm_R58_pers : Asm.assemble 32 "pers 0.01, 44100".toList =
    some (.command (.pers 0x0000028F5C28F5C3 0xAC44)) := by decide
theorem test_asm_P2_neg : Asm.assemble 32 "neg 0x028F5C29".toList = some (.command (.sub 0 0x028F5C29)) := by decide
theorem test_asm_P2_reserved : Asm.assemble 32 ".reserved 0xE".toList = some (.command (.reservedE 0 0)) := by decide
theorem test_asm_refuses_P2 : Asm.assemble 32 "freq 441, 0".toList = none ∧ Asm.assemble 32 "pern 0".toList = none ∧
    Asm.assemble 8 "int 256".toList = none := by decide
theorem test_asm_raw_P2 : Asm.assemble 32 "pern 0x0".toList = some (.command (.pern 0 0)) ∧
    Asm.assemble 32 "freq 441, 0x0".toList = some (.command (.freq 0x000001B900000000 0)) := by decide
theorem test_asm_idle_blank : Asm.assemble 32 "idle".toList = some .idle ∧ Asm.assemble 32 " ; x".toList = some .blank := by decide

end Sys2Proof.Tests

/-! ## Witnesses: values that meet the hypotheses of each statement, one for each clause, at the edges of its range -/

namespace Sys2Proof.Tests

open Sys2Proof.Machine Sys2Proof.Claims Sys2Proof.Safety

theorem witness_ratio_nonfinite : exponent64 0x7FF0000000000000 = 2047 ∧ exponent64 0xFFFFFFFFFFFFFFFF = 2047 := by decide
theorem witness_ratio_finite : exponent64 0x7FEFFFFFFFFFFFFF ≠ 2047 ∧ exponent64 0x8000000000000001 ≠ 2047 := by decide
theorem witness_ratio_whole : exponent64 0x3FF0000000000000 ≠ 2047 ∧ value64 0x3FF0000000000000 = (1 : Int) := by
  have e : exponent64 0x3FF0000000000000 = 1023 := by decide
  have f : (0x3FF0000000000000 : Bus).toNat % 2 ^ 52 = 0 := by decide
  have s : (0x3FF0000000000000 : Bus).toNat / 2 ^ 63 ≠ 1 := by decide
  refine ⟨by decide, ?_⟩
  simp only [value64, e, f, s, if_false]
  norm_num
theorem witness_freq_zero_rate : rateHz 0x100000000 = 0 := by decide
theorem witness_freq_rate : rateHz 0xFFFFFFFF00000001 ≠ 0 ∧ rateHz 0xFFFFFFFF ≠ 0 := by decide
theorem witness_freq_aliases : (0x0000ADFD00000000 : Bus).toNat =
    (0x000001B900000000 : Bus).toNat + 1 * (rateHz 0xAC44 * 2 ^ 32) := by decide
theorem witness_freq_nyquist : rateHz 0xAC44 ≠ 0 ∧ 2 * (0x0000562200000000 : Bus).toNat = rateHz 0xAC44 * 2 ^ 32 := by decide
theorem witness_pers_invalid : (rateHz 0xFFFFFFFF00000000 = 0 ∨ (5 : Bus).toNat = 0) ∧ (rateHz 1 = 0 ∨ (0 : Bus).toNat = 0) := by
  decide
theorem witness_pers_valid : rateHz 1 ≠ 0 ∧ (1 : Bus).toNat ≠ 0 := by decide
theorem witness_pern : (0 : Bus).toNat = 0 ∧ (1 : Bus).toNat ≠ 0 := by decide
theorem witness_pure : isPure (.add 1 2) = true ∧ isPure (.rad 1 2) = true := by decide
theorem witness_rounding : 0 < 1 ∧ 0 < 2 := by decide
theorem witness_idempotent : readsPolicy (.init 1 2) = false ∧ readsPolicy (.reservedF 1 2) = false := by decide
theorem witness_fixed_point : 0 < (⟨441, 1⟩ : Frac).den ∧ 0 < (⟨0, 10⟩ : Frac).den := by decide

/-- Two NEXT commands at rate 0x60 and offset 0 (P4), none run yet and both. -/
theorem witness_monotonic : let c := chip (0 : BitVec w8.n) [pins 0xB 0 0 0x60 0, pins 0xB 1 2 0x60 0]
    (0 ≤ c.inputs.length ∧ ∀ p ∈ c.inputs.take 0, PresentsNext 0x60 p ∧ p.shiftOff = .settled 0) ∧
    2 ≤ c.inputs.length ∧ ∀ p ∈ c.inputs.take 2, PresentsNext 0x60 p ∧ p.shiftOff = .settled 0 := by
  simp [chip, pins, PresentsNext]

/-- Two inputs that differ at `shift_off` alone, and the clause about their NEXT. -/
theorem witness_shift : let p : Pins w8.n := pins 0xB 0 0 0x60 3
    let q : Pins w8.n := pins 0xB 0 0 0x60 7
    List.Forall₂ (fun p q => { p with shiftOff := q.shiftOff } = q) [p] [q] ∧ 0 < 1 ∧
    [p][1 - 1]? = some p ∧ [q][1 - 1]? = some q ∧ PresentsNext 0x60 p ∧ p.shiftOff = .settled 3 ∧ q.shiftOff = .settled 7 := by
  simp [pins, PresentsNext]

/-- NEXT then ISSTART; INIT then ISSTART; reset then ISSTART; all at rate 1. -/
theorem witness_cycle_start : let q : Pins w8.n := pins 0xD 0 0 1 0
    0 < (1 : BitVec w8.n).toNat ∧ PresentsIsstart 1 q ∧
    ((chip 0xFF [pins 0xB 0 0 1 0, q]).inputs = [pins 0xB 0 0 1 0, q] ∧ PresentsNext 1 (pins 0xB 0 0 1 0 : Pins w8.n)) ∧
    ((pins 0xA 0 0 1 0 : Pins w8.n).cmdValid = true ∧ (pins 0xA 0 0 1 0 : Pins w8.n).cmdOp = 0xA#4) ∧
    ({ pins 0xB 0 0 1 0 with rst := true } : Pins w8.n).rst = true := by
  simp [chip, pins, PresentsNext, PresentsIsstart, w8]

/-- PHASE 0x20 just after a wrap at rate 0x60 (P4), with three NEXT commands to come. -/
theorem witness_wraps : let c := chip (0x20 : BitVec w8.n) (List.replicate 3 (pins 0xB 0 0 0x60 0))
    c.phase.toNat < (0x60 : BitVec w8.n).toNat ∧
    (2 ^ w8.n + (0x60 : BitVec w8.n).toNat - 1) / (0x60 : BitVec w8.n).toNat ≤ c.inputs.length ∧
    ∀ p ∈ c.inputs.take ((2 ^ w8.n + (0x60 : BitVec w8.n).toNat - 1) / (0x60 : BitVec w8.n).toNat), PresentsNext 0x60 p := by
  refine ⟨by decide, by decide, fun p hp => ?_⟩
  replace hp := List.mem_of_mem_take hp
  revert p
  simp [chip, pins, PresentsNext]

/-- One NEXT at the rate of 1/100 cycle. -/
theorem witness_accumulated_error : let c := chip (0 : BitVec w32.n) [pins 0xB 0 0 (enc w32.n (1 / 100)) 0]
    c.phase = 0 ∧ 1 ≤ c.inputs.length ∧ ∀ p ∈ c.inputs.take 1, PresentsNext (enc w32.n (1 / 100)) p := by
  simp [chip, pins, PresentsNext]

theorem witness_step : let c := chip (0 : BitVec w8.n) [pins 0x3 1 2 0 0]
    c.pins.rst = false ∧ c.pins.cmdValid = true ∧ decode c.pins.cmdOp c.pins.cmdA c.pins.cmdB = .add 1 2 := by decide

theorem witness_reset_edge : (chip (5 : BitVec w8.n) [{ pins 0xB 0 0 1 0 with rst := true }]).pins.rst = true := by decide

/-- A listed idle input, with NEXT's opcode on the bus, and no input at all. -/
theorem witness_idle_edge : let c := chip (5 : BitVec w8.n) [{ pins 0xB 1 2 1 2 with cmdValid := false }]
    let d := chip (5 : BitVec w8.n) []
    (c.inputs.length = 1 ∧ c.pins.rst = false ∧ c.pins.cmdValid = false) ∧ d.pins.rst = false ∧ d.pins.cmdValid = false := by
  decide

theorem witness_idle_cycles : let c := chip (5 : BitVec w8.n) [Pins.idle _, pins 0xB 0 0 1 0]
    (∀ p ∈ c.inputs.take 1, p.rst = false ∧ p.cmdValid = false) ∧ 0 < 1 := by
  simp [chip, Pins.idle]

/-- GET leaves `freq_take` at 0, and ISSTART leaves `shift_take` at 0. -/
theorem witness_unread : let c := chip (5 : BitVec w8.n) [pins 0xC 0 0 1 2]
    let d := chip (5 : BitVec w8.n) [pins 0xD 0 0 1 2]
    (c.inputs = pins 0xC 0 0 1 2 :: [] ∧ c.freqTake = false) ∧ (d.inputs = pins 0xD 0 0 1 2 :: [] ∧ d.shiftTake = false) := by
  decide

theorem witness_unaccepted : let c := chip (5 : BitVec w8.n) [{ pins 0xB 0 0 1 2 with rst := true }]
    c.inputs = { pins 0xB 0 0 1 2 with rst := true } :: [] ∧ c.accept = false := by decide

/-- NEXT at rate 1 changes PHASE. -/
theorem witness_phase_changes : ∃ c' : Phacc w8.n,
    step (State.mk w8 (chip 5 [pins 0xB 0 0 1 2])) = .next (State.mk w8 c') ∧ c'.phase ≠ (chip 5 [pins 0xB 0 0 1 2] : Phacc w8.n).phase :=
  ⟨_, rfl, by decide⟩

/-- A state with the invariant, and its next state. -/
theorem witness_invariant : StateInv (State.mk w8 (chip 5 [pins 0x5 1 2 0 0])) ∧
    ∃ t : State, step (State.mk w8 (chip 5 [pins 0x5 1 2 0 0])) = .next t := by
  refine ⟨?_, _, rfl⟩
  unfold StateInv
  decide

end Sys2Proof.Tests
end

section
/-! PROOFS. The rounding of a fraction (spec/00_scope.md R10) and the encoding of a cycle count (R11): how `rnd` and `enc`
behave when whole numbers are added, and the two statements about them. -/

namespace Sys2Proof.Machine

/-- R10: rounding the rational n/d is the floor of the fraction (2n + d)/(2d). -/
theorem rnd_div (n : Int) {d : Nat} (hd : 0 < d) :
    rnd ((n : ℚ) / d) = ⌊((2 * n + d : Int) : ℚ) / ((2 * d : Nat) : ℚ)⌋ := by
  have hd' : (d : ℚ) ≠ 0 := Nat.cast_ne_zero.mpr hd.ne'
  have hfrac : (n : ℚ) / d + 1 / 2 = ((2 * n + d : Int) : ℚ) / ((2 * d : Nat) : ℚ) := by
    push_cast
    field_simp
  rw [rnd, hfrac]

/-- The integer division that the meanings use is the floor of the same fraction. -/
theorem rndDiv_eq_floor (n : Int) (d : Nat) :
    rndDiv n d = ⌊((2 * n + d : Int) : ℚ) / ((2 * d : Nat) : ℚ)⌋ := by
  rw [Rat.floor_intCast_div_natCast, rndDiv, Nat.cast_mul, Nat.cast_ofNat]

/-- A rational rounds in the form R10 gives for a fraction. -/
theorem rndDiv_eq_rnd (n : Int) {d : Nat} (hd : 0 < d) : rndDiv n d = rnd ((n : ℚ) / d) :=
  (rndDiv_eq_floor n d).trans (rnd_div n hd).symm

/-- Rounding commutes with the addition of an integer, ties included. -/
theorem rnd_add_intCast (q : ℚ) (m : Int) : rnd (q + m) = rnd q + m := by
  rw [rnd, rnd, add_right_comm, Int.floor_add_intCast]

/-- R11: a whole number of cycles before rounding is a multiple of 2^N after it. -/
theorem rnd_add_cycles (N : Nat) (x : ℚ) (k : Int) :
    rnd ((x + k) * 2 ^ N) = rnd (x * 2 ^ N) + k * 2 ^ N := by
  have hcycles : (x + k) * 2 ^ N = x * 2 ^ N + ((k * 2 ^ N : Int) : ℚ) := by
    push_cast
    exact add_mul _ _ _
  rw [hcycles, rnd_add_intCast]

/-- An N-bit value does not see a multiple of 2^N. -/
theorem ofInt_add_mul_two_pow (N : Nat) (i k : Int) : BitVec.ofInt N (i + k * 2 ^ N) = BitVec.ofInt N i := by
  apply BitVec.eq_of_toInt_eq
  rw [BitVec.toInt_ofInt, BitVec.toInt_ofInt]
  exact_mod_cast Int.add_mul_bmod_self_right i k (2 ^ N)

end Sys2Proof.Machine

namespace Sys2Proof.Proofs

open Sys2Proof.Machine

/-- Settles O15: both sides are the floor of (2n + d)/(2d). -/
theorem roundingOfAFraction : Obligations.RoundingOfAFraction :=
  fun n _ hd => ⟨rnd_div n hd, rndDiv_eq_rnd n hd⟩

/-- Settles O16: k cycles become k · 2^N after rounding, which N bits do not hold. -/
theorem encodingAliasesByWholeCycles : Obligations.EncodingAliasesByWholeCycles := by
  intro N x k
  rw [enc, enc, rnd_add_cycles, ofInt_add_mul_two_pow]

end Sys2Proof.Proofs
end

section
/-! PROOFS. What a command can answer, which policies it invokes, and which input pins an edge depends on
(spec/10_state.md). -/

namespace Sys2Proof.Machine

open Sys2Proof.Safety

/-! ## The presented command -/

/-- R50: `op` alone selects the command. -/
@[simp] theorem decode_opcode (op : Opcode) (a b : Bus) : (decode op a b).opcode = op := by
  fin_cases op <;> rfl

/-- The commands at which R22 asserts `freq_take`: NEXT and ISSTART. -/
def takesRate (i : Instr) : Bool := i.opcode == 0xB#4 || i.opcode == 0xD#4

/-- The commands at which R22 asserts `shift_take`: NEXT and GET. -/
def takesOffset (i : Instr) : Bool := i.opcode == 0xB#4 || i.opcode == 0xC#4

theorem Phacc.freqTake_eq {N : Nat} (c : Phacc N) : c.freqTake = (c.accept && takesRate c.presented) := by
  simp [Phacc.freqTake, takesRate, Phacc.presented]

theorem Phacc.shiftTake_eq {N : Nat} (c : Phacc N) : c.shiftTake = (c.accept && takesOffset c.presented) := by
  simp [Phacc.shiftTake, takesOffset, Phacc.presented]

/-! ## The response of a command -/

/-- The three forms of a response: a phase value, the comparison of CMP or ISSTART, and the error response. -/
inductive Answers {N : Nat} (i : Instr) (c : Phacc N) : Prop where
  | phase (r : BitVec N) (data : c.rspData = r.setWidth 64) (flag : c.rspFlag = false) (err : c.rspErr = false)
  | comparison (op : i.opcode = 0x5#4 ∨ i.opcode = 0xD#4) (data : c.rspData.toNat < 2 ^ 3)
      (flag : c.rspFlag = true → c.rspData = 1) (err : c.rspErr = false)
  | error (data : c.rspData = 0) (flag : c.rspFlag = false) (err : c.rspErr = true)

theorem Phacc.respondCycles_answers {N : Nat} (i : Instr) (c : Phacc N) (x : Option Frac) :
    Answers i (c.respondCycles x) := by
  cases x with
  | none => exact .error rfl rfl rfl
  | some q => exact .phase (encFrac N q) rfl rfl rfl

/-- R55: CMP's result fits three bits. -/
theorem cmpResult_lt {N : Nat} (a b : BitVec N) : (cmpResult a b).toNat < 2 ^ 3 := by
  have hgt := Bool.toNat_le (phaseLt b a)
  have heq := Bool.toNat_le (decide (a = b))
  have hlt := Bool.toNat_le (phaseLt a b)
  rw [cmpResult, BitVec.toNat_ofNat]
  omega

/-- R55: where lt is 1, neither eq nor gt is. -/
theorem cmpResult_of_phaseLt {N : Nat} {a b : BitVec N} (h : phaseLt a b = true) : cmpResult a b = 1 := by
  have hlt := (phaseLt_iff a b).mp h
  have hne : a ≠ b := by rintro rfl; exact lt_irrefl _ hlt
  have hgt : phaseLt b a = false := by simp [phaseLt, hlt.le]
  simp [cmpResult, h, hne, hgt]

theorem flagData_lt (f : Bool) : (flagData f).toNat < 2 ^ 3 := by cases f <;> decide

/-- Every command answers a next state, with a response of one of the three forms. -/
theorem exec_answers (i : Instr) (w : Width) (c : Phacc w.n) :
    ∃ c' : Phacc w.n, exec i (State.mk w c) = .next (State.mk w c') ∧ Answers i c' := by
  cases i
  case reserved0 | reservedE | reservedF => exact ⟨_, rfl, .error rfl rfl rfl⟩
  case ratio | freq | pers | pern | rad => exact ⟨_, rfl, Phacc.respondCycles_answers _ _ _⟩
  case int | add | sub | next | get => exact ⟨_, rfl, .phase _ rfl rfl rfl⟩
  case init => exact ⟨_, rfl, .phase 0 (by simp) rfl rfl⟩
  case cmp => exact ⟨_, rfl, .comparison (.inl rfl) (cmpResult_lt _ _) cmpResult_of_phaseLt rfl⟩
  case isstart => exact ⟨_, rfl, .comparison (.inr rfl) (flagData_lt _) (congrArg flagData) rfl⟩

/-! ## The policies that a command invokes -/

@[simp] theorem Phacc.respondCycles_freqTaken {N : Nat} (c : Phacc N) (x : Option Frac) :
    (c.respondCycles x).freqTaken = c.freqTaken := by cases x <;> rfl

@[simp] theorem Phacc.respondCycles_shiftTaken {N : Nat} (c : Phacc N) (x : Option Frac) :
    (c.respondCycles x).shiftTaken = c.shiftTaken := by cases x <;> rfl

/-- R24: from strobes at 0, a command's readings assert those that R22 gives for its opcode. -/
theorem exec_strobes (i : Instr) (w : Width) {c : Phacc w.n} (hf : c.freqTaken = false) (hs : c.shiftTaken = false) :
    ∃ c' : Phacc w.n, exec i (State.mk w c) = .next (State.mk w c') ∧
      c'.freqTaken = takesRate i ∧ c'.shiftTaken = takesOffset i := by
  cases i
  case ratio | freq | pers | pern | rad =>
    exact ⟨_, rfl, (Phacc.respondCycles_freqTaken _ _).trans hf, (Phacc.respondCycles_shiftTaken _ _).trans hs⟩
  case next => exact ⟨_, rfl, rfl, rfl⟩
  case get => exact ⟨_, rfl, hf, rfl⟩
  case isstart => exact ⟨_, rfl, rfl, hs⟩
  all_goals exact ⟨_, rfl, hf, hs⟩

/-! ## What an edge answers -/

/-- R77 as a case analysis: reset, the accepted command, or idle. -/
theorem step_cases (w : Width) (c : Phacc w.n) :
    (c.pins.rst = true ∧ step (State.mk w c) = .next (State.mk w c.beginEdge.resetRegs.endEdge)) ∨
    (c.pins.rst = false ∧ c.pins.cmdValid = true ∧
      step (State.mk w c) = Result.endEdge (exec c.presented (State.mk w c.beginEdge))) ∨
    (c.pins.rst = false ∧ c.pins.cmdValid = false ∧
      step (State.mk w c) = .next (State.mk w c.beginEdge.idleRegs.endEdge)) := by
  cases hr : c.pins.rst with
  | true => exact .inl ⟨rfl, step_of_reset hr⟩
  | false =>
    cases hv : c.pins.cmdValid with
    | true => exact .inr (.inl ⟨rfl, rfl, step_of_accept hr hv⟩)
    | false => exact .inr (.inr ⟨rfl, rfl, step_of_idle hr hv⟩)

/-! ## The input pins that an edge depends on -/

/-- The response of a conversion does not depend on the pins of its edge: they may as well have moved on before it. -/
theorem Phacc.respondCycles_endEdge {N : Nat} (c : Phacc N) (x : Option Frac) :
    (c.respondCycles x).endEdge = c.endEdge.respondCycles x := by cases x <;> rfl

/-- A command depends on a policy port only where it takes it. -/
theorem exec_endEdge_congr {i : Instr} {w : Width} {c : Phacc w.n} {p q : Pins w.n} {rest : List (Pins w.n)}
    (hin : c.inputs = p :: rest) (hrate : takesRate i = true → q.freqRate = p.freqRate)
    (hoff : takesOffset i = true → q.shiftOff = p.shiftOff) :
    Result.endEdge (exec i (State.mk w { c with inputs := q :: rest })) = Result.endEdge (exec i (State.mk w c)) := by
  obtain ⟨phase, valid, data, flag, err, ftaken, staken, inputs, rdraws, odraws⟩ := c
  obtain rfl : inputs = p :: rest := hin
  obtain ⟨prst, pvalid, pop, pa, pb, prate, poff⟩ := p
  obtain ⟨qrst, qvalid, qop, qa, qb, qrate, qoff⟩ := q
  cases i
  case ratio | freq | pers | pern =>
    simp only [exec, execRatio, execFreq, execPers, execPern, State.complete_eq, Result.endEdge_next,
      Phacc.respondCycles_endEdge]
    rfl
  case next =>
    obtain rfl : qrate = prate := hrate rfl
    obtain rfl : qoff = poff := hoff rfl
    rfl
  case get =>
    obtain rfl : qoff = poff := hoff rfl
    rfl
  case isstart =>
    obtain rfl : qrate = prate := hrate rfl
    rfl
  all_goals rfl

/-- R20, R23: an edge depends on `rst` and `cmd_valid`, on the command where it is accepted, and on a policy value where
its take strobe is 1. -/
theorem step_congr_pins {w : Width} {c : Phacc w.n} {p q : Pins w.n} {rest : List (Pins w.n)}
    (hin : c.inputs = p :: rest) (hrst : q.rst = p.rst) (hvalid : q.cmdValid = p.cmdValid)
    (hcmd : c.accept = true → q.cmdOp = p.cmdOp ∧ q.cmdA = p.cmdA ∧ q.cmdB = p.cmdB)
    (hrate : c.freqTake = true → q.freqRate = p.freqRate) (hoff : c.shiftTake = true → q.shiftOff = p.shiftOff) :
    step (State.mk w { c with inputs := q :: rest }) = step (State.mk w c) := by
  obtain rfl : c.pins = p := by simp [Phacc.pins, hin]
  obtain ⟨hr, h⟩ | ⟨hr, hv, h⟩ | ⟨hr, hv, h⟩ := step_cases w c
  · rw [h, step_of_reset (c := { c with inputs := q :: rest }) (hrst.trans hr)]
    simp [Phacc.endEdge, Phacc.resetRegs, Phacc.beginEdge, hin]
  · have hacc : c.accept = true := by simp [Phacc.accept, hr, hv]
    obtain ⟨hop, ha, hb⟩ := hcmd hacc
    have hpres : Phacc.presented { c with inputs := q :: rest } = c.presented := by
      rw [Phacc.presented, Phacc.presented, ← hop, ← ha, ← hb]
      rfl
    rw [h, step_of_accept (c := { c with inputs := q :: rest }) (hrst.trans hr) (hvalid.trans hv), hpres]
    exact exec_endEdge_congr (c := c.beginEdge) hin
      (fun ht => hrate (by simp [c.freqTake_eq, hacc, ht])) (fun ht => hoff (by simp [c.shiftTake_eq, hacc, ht]))
  · rw [h, step_of_idle (c := { c with inputs := q :: rest }) (hrst.trans hr) (hvalid.trans hv)]
    simp [Phacc.endEdge, Phacc.idleRegs, Phacc.beginEdge, hin]

/-! ## The invariant -/

/-- A response of data 0 and flag 0, be it an error response or not, meets the invariant. -/
theorem stateInv_of_data_zero {w : Width} {c : Phacc w.n} (data : c.rspData = 0) (flag : c.rspFlag = false) :
    StateInv (State.mk w c) := by
  refine ⟨Nat.le_sub_one_of_lt c.phase.isLt, ?_, fun h => ?_, fun _ => ⟨data, flag⟩⟩
  · simp [data]
  · simp [flag] at h

/-- A response without error meets the invariant where its data is in range and its flag comes with data 1. -/
theorem stateInv_of_no_error {w : Width} {c : Phacc w.n} (data : c.rspData.toNat < 2 ^ max w.n 3)
    (flag : c.rspFlag = true → c.rspData = 1) (err : c.rspErr = false) : StateInv (State.mk w c) := by
  refine ⟨Nat.le_sub_one_of_lt c.phase.isLt, data, flag, fun h => ?_⟩
  simp [err] at h

/-- R25: each form of a response meets the invariant. -/
theorem Answers.stateInv {w : Width} {c : Phacc w.n} {i : Instr} (h : Answers i c) : StateInv (State.mk w c) := by
  cases h with
  | phase r data flag err =>
    refine stateInv_of_no_error ?_ (by simp [flag]) err
    rw [data, toNat_setWidth_bus]
    exact r.isLt.trans_le (Nat.pow_le_pow_right (by decide) (le_max_left _ _))
  | comparison _ data flag err =>
    exact stateInv_of_no_error (data.trans_le (Nat.pow_le_pow_right (by decide) (le_max_right _ _))) flag err
  | error data flag _ => exact stateInv_of_data_zero data flag

/-- What ends an edge, or makes it an idle one, leaves everything that the invariant speaks of. -/
theorem stateInv_endEdge {w : Width} {c : Phacc w.n} (h : StateInv (State.mk w c)) :
    StateInv (State.mk w c.endEdge) := h

theorem stateInv_idleRegs {w : Width} {c : Phacc w.n} (h : StateInv (State.mk w c)) :
    StateInv (State.mk w c.beginEdge.idleRegs) := h

/-- R77: a reset clears the response, a command leaves one of the three forms, an idle edge keeps its data. -/
theorem step_stateInv {w : Width} {c : Phacc w.n} (hinv : StateInv (State.mk w c)) :
    ∃ c' : Phacc w.n, step (State.mk w c) = .next (State.mk w c') ∧ StateInv (State.mk w c') := by
  obtain ⟨_, h⟩ | ⟨_, _, h⟩ | ⟨_, _, h⟩ := step_cases w c
  · exact ⟨_, h, stateInv_of_data_zero rfl rfl⟩
  · obtain ⟨c', hexec, hans⟩ := exec_answers c.presented w c.beginEdge
    rw [hexec, Result.endEdge_next] at h
    exact ⟨_, h, stateInv_endEdge hans.stateInv⟩
  · exact ⟨_, h, stateInv_endEdge (stateInv_idleRegs hinv)⟩

end Sys2Proof.Machine

namespace Sys2Proof.Proofs

open Sys2Proof.Machine Sys2Proof.Safety

/-- Settles O46: each of the three edges of R77 leaves a block with the invariant. -/
theorem stepKeepsTheInvariant : Obligations.StepKeepsTheInvariant := by
  intro ⟨w, c⟩ t hinv hstep
  obtain ⟨c', h, hinv'⟩ := step_stateInv hinv
  rw [h] at hstep
  cases hstep
  exact hinv'

/-- Settles O29: of the three forms of a response only a comparison can have flag 1. -/
theorem onlyCmpAndIsstartRaiseTheFlag : Obligations.OnlyCmpAndIsstartRaiseTheFlag := by
  intro i w c
  obtain ⟨c', hexec, hans⟩ := exec_answers i w c
  refine ⟨c', hexec, fun hflag => ?_⟩
  cases hans with
  | phase _ _ flag _ => simp [flag] at hflag
  | comparison op _ data _ => exact ⟨op, data hflag⟩
  | error _ flag _ => simp [flag] at hflag

/-- Settles O41: an accepted command's readings are those of its opcode, and any other edge makes none. -/
theorem readingsMatchTheStrobes : Obligations.ReadingsMatchTheStrobes := by
  intro w c
  rw [c.freqTake_eq, c.shiftTake_eq, Phacc.accept]
  obtain ⟨hr, h⟩ | ⟨hr, hv, h⟩ | ⟨hr, hv, h⟩ := step_cases w c
  · exact ⟨_, h, by simp [hr], by simp [hr]⟩
  · obtain ⟨c', hexec, hf, hs⟩ := exec_strobes c.presented w (c := c.beginEdge) rfl rfl
    rw [hexec, Result.endEdge_next] at h
    exact ⟨_, h, by simp [hr, hv, hf], by simp [hr, hv, hs]⟩
  · exact ⟨_, h, by simp [hv], by simp [hv]⟩

/-- Settles O42: the edge depends on a policy port only where its take strobe is 1. -/
theorem unreadPolicyValueHasNoEffect : Obligations.UnreadPolicyValueHasNoEffect := by
  intro w c p rest v hin
  exact ⟨fun hf => step_congr_pins hin rfl rfl (fun _ => ⟨rfl, rfl, rfl⟩) (by simp [hf]) (fun _ => rfl),
    fun hs => step_congr_pins hin rfl rfl (fun _ => ⟨rfl, rfl, rfl⟩) (fun _ => rfl) (by simp [hs])⟩

/-- Settles O43: the edge depends on the command port only where it accepts. -/
theorem unacceptedCommandHasNoEffect : Obligations.UnacceptedCommandHasNoEffect := by
  intro w c p rest op a b hin hacc
  exact step_congr_pins hin rfl rfl (by simp [hacc]) (fun _ => rfl) (fun _ => rfl)

/-- Settles O37: the idle branch of the edge. -/
theorem idleEdgeClearsOnlyValid : Obligations.IdleEdgeClearsOnlyValid := fun _ _ hr hv => step_of_idle hr hv

/-- Settles O39: R28 in the state after reset. -/
theorem resetValues : Obligations.ResetValues := ⟨rfl, rfl, rfl, rfl, rfl⟩

/-- Settles O47: the response registers are 0 after reset. -/
theorem resetHasTheInvariant : Obligations.ResetHasTheInvariant := stateInv_of_data_zero rfl rfl

end Sys2Proof.Proofs
end

section
/-! PROOFS. Running a command twice, and placing a command word on the command port (spec/20_memory.md). -/

namespace Sys2Proof

/-! ## The fields of an encoded command (spec/30_encoding.md R42) -/

@[simp] theorem encode_op (i : Instr) : (encode i).op = i.opcode := by
  rw [encode, CmdWord.op, BitVec.append_assoc, BitVec.extractLsb'_cast, BitVec.extractLsb'_append_eq_left]

@[simp] theorem encode_a (i : Instr) : (encode i).a = i.opA := by
  rw [encode, CmdWord.a, BitVec.append_assoc, BitVec.extractLsb'_cast,
    BitVec.extractLsb'_append_eq_of_add_le (by decide), BitVec.extractLsb'_append_eq_left]

@[simp] theorem encode_b (i : Instr) : (encode i).b = i.opB := by
  rw [encode, CmdWord.b, BitVec.extractLsb'_append_eq_right]

/-- R44: each row of the opcode map is the row of its constructor's opcode. -/
@[simp] theorem decode_fields (i : Instr) : decode i.opcode i.opA i.opB = i := by
  cases i <;> simp [decode, Instr.opcode, Instr.opA, Instr.opB]

/-- R42, R50: the decoder reads back what the encoder wrote. -/
@[simp] theorem decodeWord_encode (i : Instr) : decodeWord (encode i) = i := by
  rw [decodeWord, encode_op, encode_a, encode_b, decode_fields]

/-! ## The table word: 136 bits, of which a command takes 132 -/

/-- The four bits that a table word has above a command word are 0. -/
theorem CmdWord.toNat_mod_tableWord (v : CmdWord) : v.toNat % 2 ^ 136 = v.toNat :=
  Nat.mod_eq_of_lt (v.isLt.trans (by decide))

/-- The table word of a command word decodes as the command word does. -/
theorem decodeTableWord_toNat (v : CmdWord) : decodeTableWord 136 v.toNat = some (decodeWord v) := by
  rw [decodeTableWord, v.toNat_mod_tableWord, decodeNat, if_pos v.isLt, BitVec.ofNat_toNat, BitVec.setWidth_eq]
  rfl

end Sys2Proof

namespace Sys2Proof.Machine

/-! ## The placed command word -/

/-- A table word is placed as the command word that it holds. -/
theorem State.withFetchWord_toNat (s : State) (v : CmdWord) :
    s.withFetchWord 136 v.toNat = { s with chip := s.chip.present v } := by
  rw [State.withFetchWord, v.toNat_mod_tableWord, BitVec.ofNat_toNat, BitVec.setWidth_eq]

/-- R22: the coming edge accepts the placed command. -/
@[simp] theorem Phacc.present_accept {N : Nat} (c : Phacc N) (v : CmdWord) : (c.present v).accept = true := rfl

/-- R20: the command port presents the command of the placed word. -/
@[simp] theorem Phacc.present_presented {N : Nat} (c : Phacc N) (v : CmdWord) :
    (c.present v).presented = decodeWord v := rfl

/-! ## A response given twice -/

/-- A second equal response to a conversion writes what the first one wrote. -/
@[simp] theorem Phacc.respondCycles_respondCycles {N : Nat} (c : Phacc N) (x : Option Frac) :
    (c.respondCycles x).respondCycles x = c.respondCycles x := by cases x <;> rfl

/-- R34: a command that reads no policy writes values that depend on its operands alone, so it writes them again. -/
theorem exec_idempotent {i : Instr} (hi : Claims.readsPolicy i = false) (w : Width) (c : Phacc w.n) :
    ∃ c' : Phacc w.n, exec i (State.mk w c) = .next (State.mk w c') ∧
      exec i (State.mk w c') = .next (State.mk w c') := by
  cases i
  case next | get | isstart => cases hi
  case ratio | freq | pers | pern =>
    exact ⟨_, rfl, congrArg (fun d => Host.Outcome.next (State.mk w d)) (c.respondCycles_respondCycles _)⟩
  case int | add | sub | cmp | rad | init | reserved0 | reservedE | reservedF => exact ⟨_, rfl, rfl⟩

end Sys2Proof.Machine

namespace Sys2Proof.Proofs

open Sys2Proof.Machine

/-- Settles O45: the response registers, and PHASE for INIT, are overwritten with the same values. -/
theorem commandsWithoutPolicyAreIdempotent : Obligations.CommandsWithoutPolicyAreIdempotent := by
  intro i ⟨w, c⟩ hi
  obtain ⟨c', hfirst, hsecond⟩ := exec_idempotent hi w c
  exact ⟨State.mk w c', hfirst, hsecond⟩

/-- Settles O49: the word is placed whole, and the command port decodes it as the encoder wrote it. -/
theorem placedWordIsTheNextCommand : Obligations.PlacedWordIsTheNextCommand := by
  intro i s
  have hword : decodeTableWord 136 (encode i).toNat = some i := by rw [decodeTableWord_toNat, decodeWord_encode]
  rw [State.withFetchWord_toNat]
  exact ⟨hword, s.chip.present_accept _, (s.chip.present_presented _).trans (decodeWord_encode i)⟩

end Sys2Proof.Proofs
end

section
/-! PROOFS. The command word and its three fields, both ways, the fields that a command ignores, and the fixed-point
operands of the assembler (spec/30_encoding.md). -/

namespace Sys2Proof

open Sys2Proof.Machine

/-! ## The fields of a decoded command (R42, R50) -/

/-- R50: every row of the opcode map passes A on. -/
@[simp] theorem decode_opA (op : Opcode) (a b : Bus) : (decode op a b).opA = a := by
  unfold decode
  split <;> rfl

/-- R50: every row of the opcode map passes B on. -/
@[simp] theorem decode_opB (op : Opcode) (a b : Bus) : (decode op a b).opB = b := by
  unfold decode
  split <;> rfl

/-- R42: the encoder writes back the three fields that the decoder read. -/
theorem encode_decode (op : Opcode) (a b : Bus) : encode (decode op a b) = op ++ a ++ b := by
  rw [encode, decode_opcode, decode_opA, decode_opB]

/-- R42: the fields are adjacent, and together they are all 132 bits. -/
theorem CmdWord.op_append_a_append_b (v : CmdWord) : v.op ++ v.a ++ v.b = v := by
  have hop_a : v.op ++ v.a = v.extractLsb' 64 68 := BitVec.extractLsb'_append_extractLsb'_eq_extractLsb' rfl
  have hall : v.extractLsb' 64 68 ++ v.b = v.extractLsb' 0 132 :=
    BitVec.extractLsb'_append_extractLsb'_eq_extractLsb' rfl
  rw [hop_a, hall, BitVec.extractLsb'_eq_self]

/-- R42, R50: the encoder writes the word that the decoder read. -/
@[simp] theorem encode_decodeWord (v : CmdWord) : encode (decodeWord v) = v :=
  (encode_decode v.op v.a v.b).trans v.op_append_a_append_b

/-! ## The kept part of an operand bus (R43) -/

/-- Keeping the low k bits is the remainder modulo 2^k. -/
@[simp] theorem keepLow_toNat (k : Nat) (v : Bus) : (keepLow k v).toNat = v.toNat % 2 ^ k := by
  rw [keepLow, BitVec.toNat_setWidth, BitVec.toNat_setWidth]
  exact Nat.mod_eq_of_lt ((Nat.mod_le _ _).trans_lt v.isLt)

end Sys2Proof

namespace Sys2Proof.Machine

open Sys2Proof.Claims

/-! ## The ignored fields (R43) -/

/-- A phase operand does not read the bits from N upward. -/
@[simp] theorem phaseOperand_keepLow (N : Nat) (v : Bus) : phaseOperand N (keepLow N v) = phaseOperand N v := by
  apply BitVec.eq_of_toNat_eq
  rw [phaseOperand_toNat, phaseOperand_toNat, keepLow_toNat, Nat.mod_mod]

/-- A sample rate does not read B[63:32]. -/
@[simp] theorem sampleRate_keepLow (b : Bus) : sampleRate (keepLow 32 b) = sampleRate b := by
  rw [sampleRate_eq, sampleRate_eq, keepLow_toNat, Nat.mod_mod]

@[simp] theorem freqCycles_keepLow (a b : Bus) : freqCycles a (keepLow 32 b) = freqCycles a b := by
  rw [freqCycles, freqCycles, sampleRate_keepLow]

@[simp] theorem persCycles_keepLow (a b : Bus) : persCycles a (keepLow 32 b) = persCycles a b := by
  rw [persCycles, persCycles, sampleRate_keepLow]

/-- R43, S6: a command reads its operands through forms that drop the ignored bits, and never reads an ignored bus. -/
theorem exec_canonical (i : Instr) (s : State) : exec (i.canonical s.width.n) s = exec i s := by
  cases i
  case int | add | sub | cmp =>
    simp only [Instr.canonical, exec, execInt, execAdd, execSub, execCmp, phaseOperand_keepLow]
  case freq | pers => simp only [Instr.canonical, exec, execFreq, execPers, freqCycles_keepLow, persCycles_keepLow]
  case ratio | pern | rad | init | next | get | isstart | reserved0 | reservedE | reservedF => rfl

/-! ## The reserved opcodes (R45) -/

/-- R69: the error response is data 0, flag 0 and error 1, and nothing else changes. -/
theorem Phacc.respondErr_eq_answer {N : Nat} (c : Phacc N) : c.respondErr = answer c 0 false true := rfl

/-! ## The fixed-point operands of the assembler (R48) -/

namespace Asm

/-- An unsigned 64-bit field holds exactly the integers from 0 to 2^64 - 1. -/
theorem intField_unsigned (z : Int) :
    intField z 0 (2 ^ 64 - 1) = if 0 ≤ z ∧ z < 2 ^ 64 then some (BitVec.ofInt 64 z) else none := by
  simp only [intField, Int.le_sub_one_iff]

/-- R48: scaling the numerator by 2^n scales the number. -/
theorem rndDiv_scaled (n : Nat) {q : Frac} (hd : 0 < q.den) :
    rndDiv (q.num * 2 ^ n) q.den = rnd ((q.num : ℚ) / q.den * 2 ^ n) := by
  rw [rndDiv_eq_rnd _ hd]
  push_cast
  rw [mul_div_right_comm]

/-- R48: the field of a UQm.n operand, in the spec's own rounding. -/
theorem uqField_eq (n : Nat) {q : Frac} (hd : 0 < q.den) :
    uqField n q =
      if 0 ≤ rnd ((q.num : ℚ) / q.den * 2 ^ n) ∧ rnd ((q.num : ℚ) / q.den * 2 ^ n) < 2 ^ 64
      then some (BitVec.ofInt 64 (rnd ((q.num : ℚ) / q.den * 2 ^ n))) else none := by
  rw [uqField, intField_unsigned, rndDiv_scaled n hd]

/-- P2: a period is refused where the number itself, not its field, is 0. -/
theorem periodField_eq (n : Nat) {q : Frac} (hd : 0 < q.den) :
    periodField n q = if (q.num : ℚ) / q.den = 0 then none else uqField n q := by
  have hzero : (q.num : ℚ) / q.den = 0 ↔ q.num = 0 := by simp [hd.ne']
  simp only [periodField, hzero]

end Asm

end Sys2Proof.Machine

namespace Sys2Proof.Proofs

open Sys2Proof.Machine

/-- Settles O31: the fields of the encoded word are the command's own, and its opcode selects its row. -/
theorem decodeOfEncode : Obligations.DecodeOfEncode := decodeWord_encode

/-- Settles O32: decoding loses none of the word's three fields. -/
theorem encodeOfDecode : Obligations.EncodeOfDecode := encode_decodeWord

/-- Settles O34: the operand forms drop what R43 ignores. -/
theorem ignoredFieldsHaveNoEffect : Obligations.IgnoredFieldsHaveNoEffect := fun i s => (exec_canonical i s).symm

/-- Settles O50: the assembler's integer division is the spec's rounding, and its bounds are those of 64 bits. -/
theorem assembledFixedPointIsRounded : Obligations.AssembledFixedPointIsRounded :=
  fun n _ hd => ⟨Asm.uqField_eq n hd, Asm.periodField_eq n hd⟩

/-- Settles O27: the last rows of the opcode map, and the shared error response. -/
theorem reservedOpcodesOnlyAnswerAnError : Obligations.ReservedOpcodesOnlyAnswerAnError := by
  intro w c a b
  rw [← c.respondErr_eq_answer]
  exact ⟨⟨rfl, rfl, rfl⟩, rfl, rfl, rfl⟩

/-- Settles O30: each word is the encoding of its command, so the decoder reads the command back. -/
theorem wordsOfTheSpecDecode : Obligations.WordsOfTheSpecDecode :=
  ⟨decodeWord_encode (.freq 0x000001B900000000 0xAC44), decodeWord_encode (.ratio 0x3FB999999999999A 0),
    decodeWord_encode (.next 0xFFFFFFFFFFFFFFFF 0xFFFFFFFFFFFFFFFF), decodeWord_encode (.reserved0 0 0)⟩

/-- Settles O33: the three fields of the decoded command. -/
theorem decodingUsesTheOpcodeAlone : Obligations.DecodingUsesTheOpcodeAlone :=
  fun op a b => ⟨decode_opcode op a b, decode_opA op a b, decode_opB op a b⟩

end Sys2Proof.Proofs
end

section
/-! PROOFS. INT, RATIO, ADD, SUB and CMP (spec/40_phase_arith.md): responses in the spec's own arithmetic, the exact
value of a binary64 number, and the laws of ADD and SUB. -/

namespace Sys2Proof.Machine

open Sys2Proof.Claims

/-! ## The responses (spec/00_scope.md R13) -/

/-- R13: a phase value is answered as its number, with flag and error 0. -/
theorem Phacc.respondPhase_eq_answer {N : Nat} (c : Phacc N) (r : BitVec N) :
    c.respondPhase r = answer c r.toNat false false := by
  rw [answer, BitVec.ofNat_toNat]
  rfl

/-- R10, R11: `enc` of a fraction, by the integer division that the meanings use. -/
theorem encFrac_eq_enc (N : Nat) {x : Frac} (hd : 0 < x.den) : encFrac N x = enc N ((x.num : ℚ) / x.den) := by
  rw [encFrac, rndDiv_eq_rnd _ hd, enc]
  push_cast
  rw [mul_div_right_comm]

/-- R11: a command that encodes x cycles answers `enc(x)`. -/
theorem Phacc.respondCycles_eq_answer {N : Nat} (c : Phacc N) {x : Frac} (hd : 0 < x.den) :
    c.respondCycles (some x) = answer c (enc N ((x.num : ℚ) / x.den)).toNat false false := by
  rw [← encFrac_eq_enc N hd, ← c.respondPhase_eq_answer]
  rfl

/-! ## The whole next state of each command -/

section Exec

variable (w : Width) (c : Phacc w.n) (a b : Bus)

/-- R51. -/
theorem exec_int : exec (.int a b) (State.mk w c) = .next (State.mk w (c.respondPhase (phaseOperand w.n a))) := rfl

/-- R52. -/
theorem exec_ratio : exec (.ratio a b) (State.mk w c) = .next (State.mk w (c.respondCycles (ratioCycles a))) := rfl

/-- R53. -/
theorem exec_add : exec (.add a b) (State.mk w c) =
    .next (State.mk w (c.respondPhase (phaseOperand w.n a + phaseOperand w.n b))) := rfl

/-- R54. -/
theorem exec_sub : exec (.sub a b) (State.mk w c) =
    .next (State.mk w (c.respondPhase (phaseOperand w.n a - phaseOperand w.n b))) := rfl

/-- R55. -/
theorem exec_cmp : exec (.cmp a b) (State.mk w c) =
    .next (State.mk w (c.respond (cmpResult (phaseOperand w.n a) (phaseOperand w.n b))
      (phaseLt (phaseOperand w.n a) (phaseOperand w.n b)))) := rfl

end Exec

/-! ## The exact value of a binary64 number (R52) -/

@[simp] theorem b64Exponent_eq (a : Bus) : b64Exponent a = exponent64 a := by
  simp [b64Exponent, exponent64, Nat.shiftRight_eq_div_pow]

@[simp] theorem b64Fraction_eq (a : Bus) : b64Fraction a = a.toNat % 2 ^ 52 := by simp [b64Fraction]

/-- The sign bit is the topmost bit of the bus, with nothing above it. -/
theorem b64Sign_iff (a : Bus) : b64Sign a = true ↔ a.toNat / 2 ^ 63 = 1 := by
  have := a.isLt
  rw [b64Sign, BitVec.getLsbD, Nat.testBit_eq_decide_div_mod_eq, decide_eq_true_eq]
  omega

theorem b64Magnitude_den_pos (a : Bus) : 0 < (b64Magnitude a).den := by
  simp only [b64Magnitude, pow2_eq]
  split_ifs <;> positivity

/-- A power of two as a denominator. -/
theorem div_natCast_two_pow (q : ℚ) (k : Nat) : q / ((2 ^ k : Nat) : ℚ) = q * 2 ^ (-(k : Int)) := by
  rw [zpow_neg, zpow_natCast, div_eq_mul_inv, Nat.cast_pow, Nat.cast_ofNat]

/-- The scale `2^(e - 1075)` is a denominator below e = 1075 and a factor of the numerator from there on. -/
theorem b64Magnitude_value (a : Bus) :
    ((b64Magnitude a).num : ℚ) / (b64Magnitude a).den =
      if (exponent64 a : Int) = 0 then ((a.toNat % 2 ^ 52 : Nat) : ℚ) * 2 ^ (-1074 : Int)
      else (2 ^ 52 + ((a.toNat % 2 ^ 52 : Nat) : ℚ)) * 2 ^ ((exponent64 a : Int) - 1075) := by
  simp only [b64Magnitude, b64Exponent_eq, b64Fraction_eq, pow2_eq, Int.natCast_eq_zero]
  generalize exponent64 a = e
  generalize a.toNat % 2 ^ 52 = f
  split_ifs with hzero hsmall
  · exact div_natCast_two_pow f 1074
  · have hscale : (e : Int) - 1075 = -((1075 - e : Nat) : Int) := by omega
    rw [hscale, div_natCast_two_pow]
    norm_cast
  · have hscale : (e : Int) - 1075 = ((e - 1075 : Nat) : Int) := by omega
    rw [hscale, zpow_natCast, Nat.cast_one, div_one]
    norm_cast

/-- R52: infinities and NaNs have no value. -/
theorem ratioCycles_of_not_finite {a : Bus} (h : exponent64 a = 2047) : ratioCycles a = none := by
  simp [ratioCycles, h]

/-- R52: any other binary64 number encodes its exact value. -/
theorem ratioCycles_of_finite {a : Bus} (h : exponent64 a ≠ 2047) :
    ∃ x : Frac, ratioCycles a = some x ∧ 0 < x.den ∧ (x.num : ℚ) / x.den = value64 a := by
  refine ⟨_, if_neg ((b64Exponent_eq a).trans_ne h), b64Magnitude_den_pos a, ?_⟩
  simp only [value64, ← b64Magnitude_value, b64Sign_iff]
  split_ifs
  · rw [Int.cast_neg, neg_div]
  · rfl

/-- R52: RATIO of a finite number, as a whole next state. -/
theorem exec_ratio_of_finite (w : Width) (c : Phacc w.n) {a : Bus} (b : Bus) (h : exponent64 a ≠ 2047) :
    exec (.ratio a b) (State.mk w c) = .next (State.mk w (answer c (enc w.n (value64 a)).toNat false false)) := by
  obtain ⟨x, hx, hden, hvalue⟩ := ratioCycles_of_finite h
  rw [exec_ratio, hx, c.respondCycles_eq_answer hden, hvalue]

/-- R11: a whole number of cycles is no phase. -/
theorem enc_intCast (N : Nat) (k : Int) : enc N k = 0 := by
  have haliases : enc N (0 + k) = enc N 0 := Proofs.encodingAliasesByWholeCycles N 0 k
  have hrnd : rnd 0 = 0 := by norm_num [rnd]
  rw [← zero_add (k : ℚ), haliases, enc, zero_mul, hrnd]
  exact BitVec.ofInt_ofNat N 0

/-! ## Addition and subtraction modulo 2^N (R53, R54) -/

/-- A difference of phase values is the Euclidean remainder of the difference of their numbers. -/
theorem toNat_sub_eq_emod {N : Nat} (x y : BitVec N) :
    (x - y).toNat = (((x.toNat : Int) - (y.toNat : Int)) % 2 ^ N).toNat := by
  have hwrap : ((2 ^ N - y.toNat + x.toNat : Nat) : Int) = (x.toNat : Int) - y.toNat + 2 ^ N := by
    push_cast [Nat.cast_sub y.isLt.le]
    ring
  rw [BitVec.toNat_sub, ← Int.add_emod_right, ← hwrap]
  norm_cast

@[simp] theorem phaseOperand_zero (N : Nat) : phaseOperand N 0 = 0 := by simp [phaseOperand]

/-- A phase value answered on the response bus reads back as an operand. -/
@[simp] theorem phaseOperand_setWidth (w : Width) (r : BitVec w.n) : phaseOperand w.n (r.setWidth 64) = r := by
  apply BitVec.eq_of_toNat_eq
  rw [phaseOperand_toNat, toNat_setWidth_bus, Nat.mod_eq_of_lt r.isLt]

/-! ## Comparison (R55) -/

/-- R55: the three bits exclude each other; lt is the flag. -/
theorem Phacc.respond_cmp {N : Nat} (c : Phacc N) (x y : BitVec N) :
    c.respond (cmpResult x y) (phaseLt x y) =
      if x.toNat < y.toNat then answer c 1 true false
      else if x.toNat = y.toNat then answer c 2 false false
      else answer c 4 false false := by
  split_ifs with hlt heq
  · have hflag := (phaseLt_iff x y).mpr hlt
    rw [cmpResult_of_phaseLt hflag, hflag]
    rfl
  · obtain rfl := BitVec.eq_of_toNat_eq heq
    simp [cmpResult, phaseLt, Phacc.respond, answer]
  · have hgt : y.toNat < x.toNat := by omega
    have hne : x ≠ y := fun h => heq (congrArg BitVec.toNat h)
    simp [cmpResult, phaseLt, Phacc.respond, answer, hlt, hgt, hne]

end Sys2Proof.Machine

namespace Sys2Proof.Proofs

open Sys2Proof.Machine Sys2Proof.Claims

/-- Settles O2: the error response where there is no value, and `enc` of the exact value where there is one. -/
theorem ratioEncodesTheBinary64Value : Obligations.RatioEncodesTheBinary64Value := by
  intro w c a b
  refine ⟨rfl, fun h => ?_, exec_ratio_of_finite w c b⟩
  rw [exec_ratio, ratioCycles_of_not_finite h, ← c.respondErr_eq_answer]
  rfl

/-- Settles O3: a whole number of cycles encodes as 0. -/
theorem ratioOfWholeCyclesIsZero : Obligations.RatioOfWholeCyclesIsZero := by
  intro w c a b k hfinite hwhole
  rw [exec_ratio_of_finite w c b hfinite, hwhole, enc_intCast]
  rfl

/-- Settles O4: the sum of two N-bit words. -/
theorem addIsModuloTwoToN : Obligations.AddIsModuloTwoToN := by
  intro w c a b
  refine ⟨rfl, ?_⟩
  rw [exec_add, c.respondPhase_eq_answer, BitVec.toNat_add, phaseOperand_toNat, phaseOperand_toNat]

/-- Settles O5: the difference of two N-bit words. -/
theorem subIsModuloTwoToN : Obligations.SubIsModuloTwoToN := by
  intro w c a b
  refine ⟨rfl, ?_⟩
  rw [exec_sub, c.respondPhase_eq_answer, toNat_sub_eq_emod, phaseOperand_toNat, phaseOperand_toNat]

/-- Settles O6: the three outcomes of an unsigned comparison. -/
theorem cmpComparesUnsigned : Obligations.CmpComparesUnsigned := by
  intro w c a b
  refine ⟨rfl, ?_⟩
  rw [exec_cmp, c.respond_cmp, phaseOperand_toNat, phaseOperand_toNat]

/-- Settles O7: N-bit words are a commutative group under ADD, and a response reads back as an operand. -/
theorem addAndSubLaws : Obligations.AddAndSubLaws := by
  intro w c x y z
  refine ⟨?_, ?_, _, _, _, exec_add w c x y, exec_add w c y z, exec_sub w c 0 y, ?_, ?_⟩
  · rw [exec_add, exec_add, add_comm]
  · rw [exec_add, exec_int, phaseOperand_zero, add_zero]
  · rw [exec_add, exec_add, Phacc.respondPhase_rspData, Phacc.respondPhase_rspData, phaseOperand_setWidth,
      phaseOperand_setWidth, add_assoc]
  · rw [exec_sub, exec_add, Phacc.respondPhase_rspData, phaseOperand_setWidth, phaseOperand_zero, zero_sub,
      sub_eq_add_neg]

/-- Settles O1: the number of an N-bit operand. -/
theorem intKeepsTheLowNBits : Obligations.IntKeepsTheLowNBits := by
  intro w c a b
  refine ⟨rfl, ?_⟩
  rw [exec_int, c.respondPhase_eq_answer, phaseOperand_toNat]

end Sys2Proof.Proofs
end

section
/-! PROOFS. FREQ, PERS, PERN and RAD (spec/41_conversions.md): their responses in the spec's own arithmetic, the purity of
the nine commands that read no policy and no PHASE (R61), and the two error bounds of R62. -/

namespace Sys2Proof.Machine

open Sys2Proof.Claims

/-! ## The whole next state of each command -/

section Exec

variable (w : Width) (c : Phacc w.n) (a b : Bus)

/-- R57. -/
theorem exec_freq : exec (.freq a b) (State.mk w c) = .next (State.mk w (c.respondCycles (freqCycles a b))) := rfl

/-- R58. -/
theorem exec_pers : exec (.pers a b) (State.mk w c) = .next (State.mk w (c.respondCycles (persCycles a b))) := rfl

/-- R59. -/
theorem exec_pern : exec (.pern a b) (State.mk w c) = .next (State.mk w (c.respondCycles (pernCycles a))) := rfl

/-- R60. -/
theorem exec_rad : exec (.rad a b) (State.mk w c) = .next (State.mk w (c.respondCycles (some (radCycles a)))) := rfl

end Exec

/-- R69: where there is no number of cycles, the answer is the error response. -/
theorem Phacc.respondCycles_none_eq_answer {N : Nat} (c : Phacc N) : c.respondCycles none = answer c 0 false true :=
  c.respondErr_eq_answer

/-! ## The number of cycles that the operands encode -/

theorem sampleRate_eq_rateHz (b : Bus) : sampleRate b = rateHz b := sampleRate_eq b

/-- R57: sr = 0 is an invalid operand. -/
theorem freqCycles_of_rate_zero (a : Bus) {b : Bus} (hb : rateHz b = 0) : freqCycles a b = none := by
  rw [freqCycles, sampleRate_eq_rateHz, if_pos hb]

/-- R57: the fraction for `(u(A) / 2^32) / sr`. -/
theorem freqCycles_of_rate_ne_zero (a : Bus) {b : Bus} (hb : rateHz b ≠ 0) :
    freqCycles a b = some ⟨a.toNat, 2 ^ 32 * rateHz b⟩ := by
  rw [freqCycles, sampleRate_eq_rateHz, if_neg hb]

/-- R58: sr = 0 and A = 0 are invalid operands. -/
theorem persCycles_of_invalid {a b : Bus} (h : rateHz b = 0 ∨ a.toNat = 0) : persCycles a b = none := by
  rw [persCycles, sampleRate_eq_rateHz, if_pos h]

/-- R58: the fraction for `1 / (sr · (u(A) / 2^48))`. -/
theorem persCycles_of_valid {a b : Bus} (hb : rateHz b ≠ 0) (ha : a.toNat ≠ 0) :
    persCycles a b = some ⟨2 ^ 48, rateHz b * a.toNat⟩ := by
  rw [persCycles, sampleRate_eq_rateHz, if_neg (not_or.mpr ⟨hb, ha⟩)]

/-- R59: A = 0 is an invalid operand. -/
theorem pernCycles_of_zero {a : Bus} (ha : a.toNat = 0) : pernCycles a = none := if_pos ha

/-- R59: the fraction for `1 / (u(A) / 2^32)`. -/
theorem pernCycles_of_ne_zero {a : Bus} (ha : a.toNat ≠ 0) : pernCycles a = some ⟨2 ^ 32, a.toNat⟩ := if_neg ha

theorem radCycles_den_pos (a : Bus) : 0 < (radCycles a).den := by
  rw [radCycles]
  positivity

/-- R60: the fraction, with the decimal value of `INV2PI_K`. -/
theorem radCycles_value (a : Bus) :
    ((radCycles a).num : ℚ) / (radCycles a).den = (a.toInt : ℚ) * 54157620742477409023451113735280473968 / 2 ^ 160 := by
  rw [radCycles, inv2piK]
  norm_cast

/-! ## FREQ as the spec says it (R57) -/

section Freq

variable (w : Width) (c : Phacc w.n) (a : Bus) {b : Bus}

/-- R57: FREQ without a sample rate answers the error. -/
theorem exec_freq_of_rate_zero (hb : rateHz b = 0) :
    exec (.freq a b) (State.mk w c) = .next (State.mk w (answer c 0 false true)) := by
  rw [exec_freq, freqCycles_of_rate_zero a hb, c.respondCycles_none_eq_answer]

/-- R57: FREQ with a sample rate answers `enc(f / sr)`. -/
theorem exec_freq_of_rate_ne_zero (hb : rateHz b ≠ 0) :
    exec (.freq a b) (State.mk w c) =
      .next (State.mk w (answer c (enc w.n ((a.toNat : ℚ) / 2 ^ 32 / rateHz b)).toNat false false)) := by
  have hden : 0 < 2 ^ 32 * rateHz b := by positivity
  rw [exec_freq, freqCycles_of_rate_ne_zero a hb, c.respondCycles_eq_answer hden, div_div]
  push_cast
  rfl

end Freq

/-- R57: a frequency of k sample rates more is k cycles per sample more. -/
theorem hertz_add_rates_div_rate {r : Nat} (hr : r ≠ 0) (f k : Nat) :
    ((f + k * (r * 2 ^ 32) : Nat) : ℚ) / 2 ^ 32 / r = (f : ℚ) / 2 ^ 32 / r + (k : Int) := by
  have hr' : (r : ℚ) ≠ 0 := Nat.cast_ne_zero.mpr hr
  push_cast
  field_simp
  norm_num

/-- R57: half the sample rate is half a cycle per sample. -/
theorem hertz_nyquist_div_rate {r f : Nat} (hr : r ≠ 0) (hf : 2 * f = r * 2 ^ 32) :
    (f : ℚ) / 2 ^ 32 / r = 1 / 2 := by
  have hr' : (r : ℚ) ≠ 0 := Nat.cast_ne_zero.mpr hr
  have hf' : 2 * (f : ℚ) = r * 2 ^ 32 := by exact_mod_cast hf
  field_simp
  linarith

/-! ## Rounding and encoding (spec/00_scope.md R10, R11) -/

/-- An integer rounds to itself. -/
theorem rnd_intCast (m : Int) : rnd m = m := by
  rw [rnd, Int.floor_intCast_add]
  norm_num

/-- R10: to nearest, a tie toward +infinity. -/
theorem rnd_sub_bounds (q : ℚ) : -(1 / 2) < (rnd q : ℚ) - q ∧ (rnd q : ℚ) - q ≤ 1 / 2 := by
  have hle := Int.floor_le (q + 1 / 2)
  have hlt := Int.lt_floor_add_one (q + 1 / 2)
  rw [rnd]
  constructor <;> linarith

/-- The number of an N-bit word for an integer is the integer's Euclidean remainder. -/
theorem ofInt_toNat_eq_emod (N : Nat) (i : Int) : ((BitVec.ofInt N i).toNat : Int) = i % 2 ^ N := by
  rw [BitVec.toNat_ofInt, Int.toNat_of_nonneg (Int.emod_nonneg i (by positivity))]
  norm_cast

/-- The same over the rationals: the number and the integer differ by whole cycles. -/
theorem ofInt_toNat_add_cycles (N : Nat) (i : Int) :
    ∃ z : Int, ((BitVec.ofInt N i).toNat : ℚ) + z * 2 ^ N = i := by
  have hdiv : i % 2 ^ N + i / 2 ^ N * 2 ^ N = i := Int.emod_add_ediv_mul i (2 ^ N)
  rw [← ofInt_toNat_eq_emod] at hdiv
  exact ⟨i / 2 ^ N, by exact_mod_cast hdiv⟩

/-- R11: the number of an encoding. -/
theorem enc_toNat (N : Nat) (x : ℚ) : (enc N x).toNat = (rnd (x * 2 ^ N) % 2 ^ N).toNat := by
  rw [← ofInt_toNat_eq_emod, Int.toNat_natCast, enc]

/-- R57: half a cycle is the top bit of the phase. -/
theorem enc_half_toNat {N : Nat} (hN : 1 ≤ N) : (enc N (1 / 2)).toNat = 2 ^ (N - 1) := by
  obtain ⟨m, rfl⟩ := Nat.exists_eq_add_of_le' hN
  have hhalf : (1 / 2 : ℚ) * 2 ^ (m + 1) = ((2 ^ m : Nat) : Int) := by
    push_cast
    ring
  have hlt : 2 ^ m < 2 ^ (m + 1) := Nat.pow_lt_pow_succ (by decide)
  rw [enc, hhalf, rnd_intCast, BitVec.ofInt_natCast, BitVec.toNat_ofNat, Nat.mod_eq_of_lt hlt, Nat.add_sub_cancel]

/-! ## The pure commands (R61) -/

/-- A response's data, as the number on the bus. -/
theorem Phacc.respond_eq_answer {N : Nat} (c : Phacc N) (d : Bus) (f : Bool) :
    c.respond d f = answer c d.toNat f false := by
  rw [answer, BitVec.ofNat_toNat, BitVec.setWidth_eq]
  rfl

/-- The response to a conversion, with a number of cycles or without one, as a function of that alone. -/
theorem Phacc.respondCycles_eq_answer_elim {N : Nat} (c : Phacc N) (x : Option Frac) :
    c.respondCycles x = answer c (x.elim 0 fun q => (encFrac N q).toNat) false x.isNone := by
  cases x with
  | none => exact c.respondCycles_none_eq_answer
  | some q => exact c.respondPhase_eq_answer (encFrac N q)

/-- R61: a pure command's response is one and the same for every block of a width, and it writes nothing else. -/
theorem exec_eq_one_answer {i : Instr} (hi : isPure i = true) (w : Width) :
    ∃ (data : Nat) (flag err : Bool), ∀ c : Phacc w.n,
      exec i (State.mk w c) = .next (State.mk w (answer c data flag err)) := by
  cases i
  case int => exact ⟨_, _, _, fun c => by rw [exec_int, c.respondPhase_eq_answer]⟩
  case ratio => exact ⟨_, _, _, fun c => by rw [exec_ratio, c.respondCycles_eq_answer_elim]⟩
  case add => exact ⟨_, _, _, fun c => by rw [exec_add, c.respondPhase_eq_answer]⟩
  case sub => exact ⟨_, _, _, fun c => by rw [exec_sub, c.respondPhase_eq_answer]⟩
  case cmp => exact ⟨_, _, _, fun c => by rw [exec_cmp, c.respond_eq_answer]⟩
  case freq => exact ⟨_, _, _, fun c => by rw [exec_freq, c.respondCycles_eq_answer_elim]⟩
  case pers => exact ⟨_, _, _, fun c => by rw [exec_pers, c.respondCycles_eq_answer_elim]⟩
  case pern => exact ⟨_, _, _, fun c => by rw [exec_pern, c.respondCycles_eq_answer_elim]⟩
  case rad => exact ⟨_, _, _, fun c => by rw [exec_rad, c.respondCycles_eq_answer_elim]⟩
  case reserved0 | reservedE | reservedF | init | next | get | isstart => cases hi

/-! ## A run of NEXT commands at one rate (R62, R64) -/

/-- The host's runner, one edge that answers and then the rest. -/
theorem run_succ_of_step (M : Host.Core) {s t : M.State} (h : M.step s = .next t) (k : Nat) :
    M.run (k + 1) s = M.run k t := by
  rw [Host.Core.run, h]

/-- One edge that answers, and then the rest of the run. -/
theorem after_succ_of_step {s t : State} (h : step s = .next t) (k : Nat) : after (k + 1) s = after k t :=
  run_succ_of_step Sys2Proof.core h k

/-- R64: the block after an edge that accepts NEXT and reads the rate r. -/
def Phacc.afterNext {N : Nat} (c : Phacc N) (r : BitVec N) : Phacc N :=
  ((c.beginEdge.takeRate.takeOffset.setPhase (c.phase + r)).respondPhase (c.offset + c.phase)).endEdge

@[simp] theorem Phacc.afterNext_phase {N : Nat} (c : Phacc N) (r : BitVec N) :
    (c.afterNext r).phase = c.phase + r := rfl

@[simp] theorem Phacc.afterNext_inputs {N : Nat} (c : Phacc N) (r : BitVec N) :
    (c.afterNext r).inputs = c.inputs.tail := rfl

/-- R64: an edge that presents NEXT at the rate r. -/
theorem step_of_next {w : Width} {c : Phacc w.n} {r : BitVec w.n} (h : PresentsNext r c.pins) :
    step (State.mk w c) = .next (State.mk w (c.afterNext r)) := by
  obtain ⟨hrst, hvalid, hop, hrate⟩ := h
  have hpresented : c.presented = .next c.pins.cmdA c.pins.cmdB := by rw [Phacc.presented, hop]; rfl
  obtain rfl : c.rate = r := Phacc.rate_of_settled hrate
  rw [step_of_accept hrst hvalid, hpresented]
  rfl

/-- R64: k edges that present NEXT at the rate r advance PHASE by k·r, and use up k inputs. -/
theorem after_nexts {w : Width} {r : BitVec w.n} (k : Nat) (c : Phacc w.n) (hk : k ≤ c.inputs.length)
    (hnext : ∀ p ∈ c.inputs.take k, PresentsNext r p) :
    ∃ c' : Phacc w.n, after k (State.mk w c) = .next (State.mk w c') ∧
      c'.phase = c.phase + BitVec.ofNat w.n k * r ∧ c'.inputs = c.inputs.drop k := by
  induction k generalizing c with
  | zero => exact ⟨c, rfl, by simp, rfl⟩
  | succ k ih =>
    obtain ⟨p, rest, hin⟩ := List.exists_cons_of_length_pos (Nat.zero_lt_of_lt hk)
    simp only [hin, List.take_succ_cons, List.forall_mem_cons, List.length_cons, Nat.succ_le_succ_iff] at hk hnext
    obtain ⟨hp, hrest⟩ := hnext
    have hpins : c.pins = p := by simp [Phacc.pins, hin]
    have htail : (c.afterNext r).inputs = rest := by simp [hin]
    obtain ⟨c', hafter, hphase, hinputs⟩ := ih (c.afterNext r) (htail ▸ hk) (htail ▸ hrest)
    refine ⟨c', (after_succ_of_step (step_of_next (hpins ▸ hp)) k).trans hafter, ?_, ?_⟩
    · rw [hphase, Phacc.afterNext_phase, BitVec.ofNat_add, add_comm (BitVec.ofNat w.n k), BitVec.add_mul,
        BitVec.one_mul, add_assoc]
    · rw [hinputs, htail, hin, List.drop_succ_cons]

/-- k times the word of an integer is the word of k times the integer. -/
theorem ofNat_mul_ofInt (N k : Nat) (i : Int) : BitVec.ofNat N k * BitVec.ofInt N i = BitVec.ofInt N (k * i) := by
  rw [BitVec.ofInt_mul, BitVec.ofInt_natCast]

end Sys2Proof.Machine

namespace Sys2Proof.Proofs

open Sys2Proof.Machine Sys2Proof.Claims

/-- Settles O26: PHASE is the word of k times the rounded rate. -/
theorem accumulatedErrorIsExact : Obligations.AccumulatedErrorIsExact := by
  intro w c x k hzero hk hnext
  obtain ⟨c', hafter, hphase, -⟩ := after_nexts k c hk hnext
  have hword : c'.phase = BitVec.ofInt w.n (k * rnd (x * 2 ^ w.n)) := by
    rw [hphase, hzero, zero_add, enc, ofNat_mul_ofInt]
  obtain ⟨z, hz⟩ := ofInt_toNat_add_cycles w.n (k * rnd (x * 2 ^ w.n))
  refine ⟨c', hafter, ⟨z, ?_⟩, ?_⟩
  · rw [hword, hz]
    push_cast
    ring
  · obtain ⟨hlower, hupper⟩ := rnd_sub_bounds (x * 2 ^ w.n)
    exact abs_le.mpr ⟨hlower.le, hupper⟩

/-- Settles O17: the encoding is the rounded number modulo 2^N. -/
theorem encodingIsNearest : Obligations.EncodingIsNearest := by
  intro N x
  obtain ⟨k, hk⟩ := ofInt_toNat_add_cycles N (rnd (x * 2 ^ N))
  refine ⟨k, ?_⟩
  rw [enc, hk]
  exact rnd_sub_bounds (x * 2 ^ N)

/-- Settles O14: one response serves both blocks. -/
theorem pureCommandsDependOnOperandsAlone : Obligations.PureCommandsDependOnOperandsAlone := by
  intro w c d i hi
  obtain ⟨data, flag, err, h⟩ := exec_eq_one_answer hi w
  exact ⟨data, flag, err, h c, h d⟩

/-- Settles O8: the error response without a sample rate, and `enc` of the quotient with one. -/
theorem freqEncodesHertzOverRate : Obligations.FreqEncodesHertzOverRate :=
  fun w c a _ => ⟨rfl, exec_freq_of_rate_zero w c a, exec_freq_of_rate_ne_zero w c a⟩

/-- Settles O9: k sample rates are k whole cycles per sample, which the encoding does not see. -/
theorem freqAliasesAtTheSampleRate : Obligations.FreqAliasesAtTheSampleRate := by
  intro w c a a' b k ha
  by_cases hb : rateHz b = 0
  · rw [exec_freq_of_rate_zero w c a' hb, exec_freq_of_rate_zero w c a hb]
  · rw [exec_freq_of_rate_ne_zero w c a' hb, exec_freq_of_rate_ne_zero w c a hb, ha, hertz_add_rates_div_rate hb,
      encodingAliasesByWholeCycles]

/-- Settles O10: half a cycle per sample. -/
theorem freqAtNyquistIsHalfACycle : Obligations.FreqAtNyquistIsHalfACycle := by
  intro w c a b hb ha
  rw [exec_freq_of_rate_ne_zero w c a hb, hertz_nyquist_div_rate hb ha, enc_half_toNat w.pos]

/-- Settles O11: the error response for an invalid operand, and `enc` of the reciprocal otherwise. -/
theorem persEncodesTheReciprocal : Obligations.PersEncodesTheReciprocal := by
  intro w c a b
  refine ⟨rfl, fun h => ?_, fun hb ha => ?_⟩
  · rw [exec_pers, persCycles_of_invalid h, c.respondCycles_none_eq_answer]
  · have hden : 0 < rateHz b * a.toNat := by positivity
    rw [exec_pers, persCycles_of_valid hb ha, c.respondCycles_eq_answer hden, ← mul_div_assoc, one_div_div]
    push_cast
    rfl

/-- Settles O12: the error response for the period 0, and `enc` of the reciprocal otherwise. -/
theorem pernEncodesTheReciprocal : Obligations.PernEncodesTheReciprocal := by
  intro w c a b
  refine ⟨rfl, fun ha => ?_, fun ha => ?_⟩
  · rw [exec_pern, pernCycles_of_zero ha, c.respondCycles_none_eq_answer]
  · rw [exec_pern, pernCycles_of_ne_zero ha, c.respondCycles_eq_answer (Nat.pos_of_ne_zero ha), one_div_div]
    push_cast
    rfl

/-- Settles O13: the number of the encoding, with the constant's decimal value. -/
theorem radScalesByTheConstant : Obligations.RadScalesByTheConstant := by
  intro w c a b
  refine ⟨rfl, ?_⟩
  rw [exec_rad, c.respondCycles_eq_answer (radCycles_den_pos a), enc_toNat, radCycles_value, div_mul_eq_mul_div]

end Sys2Proof.Proofs
end

section
/-! PROOFS. INIT, NEXT, GET and ISSTART (spec/42_accumulator.md): each command's whole next state, what an edge does to
PHASE, and runs of NEXT at a constant rate. -/

namespace Sys2Proof.Machine

open Sys2Proof.Claims

/-! ## The policy ports -/

/-- The model's count of free values is the claims' count. -/
theorem PortValue.draws_eq_drawn {N : Nat} (p : PortValue N) : p.draws = drawn p := by cases p <;> rfl

/-- R23, R83: a reading of a settled port is its value. -/
theorem PortValue.returns_read {N : Nat} (p : PortValue N) (free : BitVec 64) : Returns p (p.read free) := by
  rintro v rfl
  rfl

/-- R23: the value that NEXT and ISSTART read is one that the frequency policy can return. -/
theorem Phacc.returns_rate {N : Nat} (c : Phacc N) : Returns c.pins.freqRate c.rate := PortValue.returns_read _ _

/-- R23: the value that NEXT and GET read is one that the shift policy can return. -/
theorem Phacc.returns_offset {N : Nat} (c : Phacc N) : Returns c.pins.shiftOff c.offset := PortValue.returns_read _ _

/-! ## The whole next state of each command -/

section Exec

variable (w : Width) (c : Phacc w.n) (a b : Bus)

/-- R63. -/
theorem exec_init : exec (.init a b) (State.mk w c) = .next (State.mk w ((c.setPhase 0).respond 0 false)) := rfl

/-- R64. -/
theorem exec_next : exec (.next a b) (State.mk w c) =
    .next (State.mk w ((c.takeRate.takeOffset.setPhase (c.phase + c.rate)).respondPhase (c.offset + c.phase))) := rfl

/-- R65. -/
theorem exec_get : exec (.get a b) (State.mk w c) =
    .next (State.mk w (c.takeOffset.respondPhase (c.offset + c.phase))) := rfl

/-- R66. -/
theorem exec_isstart : exec (.isstart a b) (State.mk w c) =
    .next (State.mk w (c.takeRate.respond (flagData (cycleStart c.phase c.rate)) (cycleStart c.phase c.rate))) := rfl

end Exec

/-! ## The accumulator's arithmetic in numbers -/

/-- R64: a sum of phase values is the sum of their numbers modulo 2^N. -/
theorem add_eq_ofNat_mod {N : Nat} (x y : BitVec N) : x + y = BitVec.ofNat N ((x.toNat + y.toNat) % 2 ^ N) := by
  rw [← BitVec.toNat_add, BitVec.ofNat_toNat, BitVec.setWidth_eq]

/-- R66: the flag is 1 where PHASE is below the rate, and the data is the flag. -/
theorem Phacc.respond_cycleStart {N : Nat} (c : Phacc N) (phase rate : BitVec N) :
    c.respond (flagData (cycleStart phase rate)) (cycleStart phase rate) =
      if phase.toNat < rate.toNat then answer c 1 true false else answer c 0 false false := by
  have hflag : cycleStart phase rate = decide (phase.toNat < rate.toNat) := rfl
  rw [hflag]
  split_ifs with hlt
  · rw [decide_eq_true hlt]
    rfl
  · rw [decide_eq_false hlt]
    rfl

end Sys2Proof.Machine

namespace Sys2Proof.Proofs

open Sys2Proof.Machine Sys2Proof.Claims

/-- Settles O19: the two readings are values that the policies can return. -/
theorem nextAdvancesAndAnswersThePrevious : Obligations.NextAdvancesAndAnswersThePrevious := by
  intro w c a b
  refine ⟨rfl, c.rate, c.offset, c.returns_rate, c.returns_offset, ?_⟩
  rw [exec_next, Phacc.respondPhase_eq_answer, add_eq_ofNat_mod c.phase, BitVec.toNat_add, ← PortValue.draws_eq_drawn,
    ← PortValue.draws_eq_drawn]
  rfl

/-- Settles O20: the reading is a value that the shift policy can return. -/
theorem getPeeksWithTheOffset : Obligations.GetPeeksWithTheOffset := by
  intro w c a b
  refine ⟨rfl, c.offset, c.returns_offset, ?_⟩
  rw [exec_get, Phacc.respondPhase_eq_answer, BitVec.toNat_add, ← PortValue.draws_eq_drawn]
  rfl

/-- Settles O21: the reading is a value that the frequency policy can return. -/
theorem isstartComparesPhaseWithTheRate : Obligations.IsstartComparesPhaseWithTheRate := by
  intro w c a b
  refine ⟨rfl, c.rate, c.returns_rate, ?_⟩
  rw [exec_isstart, Phacc.respond_cycleStart, ← PortValue.draws_eq_drawn]
  rfl

/-- Settles O18: PHASE and the response are 0. -/
theorem initZeroesPhase : Obligations.InitZeroesPhase := fun w c a b => ⟨rfl, exec_init w c a b⟩

end Sys2Proof.Proofs
end

section
/-! PROOFS. What an edge does to PHASE, and runs of edges: NEXT at a constant rate, ISSTART after it, and two runs that
differ at `shift_off` alone (spec/42_accumulator.md R67). -/

namespace Sys2Proof.Machine

open Sys2Proof.Claims

/-! ## What a command and an edge do to PHASE -/

@[simp] theorem Phacc.respondCycles_phase {N : Nat} (c : Phacc N) (x : Option Frac) :
    (c.respondCycles x).phase = c.phase := by cases x <;> rfl

@[simp] theorem Phacc.respondCycles_rateDraws {N : Nat} (c : Phacc N) (x : Option Frac) :
    (c.respondCycles x).rateDraws = c.rateDraws := by cases x <;> rfl

@[simp] theorem Phacc.respondCycles_inputs {N : Nat} (c : Phacc N) (x : Option Frac) :
    (c.respondCycles x).inputs = c.inputs := by cases x <;> rfl

/-- R63, R64: NEXT advances PHASE by the rate, INIT clears it, and no other command writes it. -/
def Phacc.phaseAfter {N : Nat} (c : Phacc N) : Instr → BitVec N
  | .next _ _ => c.phase + c.rate
  | .init _ _ => 0
  | .reserved0 _ _ | .int _ _ | .ratio _ _ | .add _ _ | .sub _ _ | .cmp _ _ | .freq _ _ | .pers _ _ | .pern _ _
  | .rad _ _ | .get _ _ | .isstart _ _ | .reservedE _ _ | .reservedF _ _ => c.phase

/-- R83: a command uses up a free value of `freq_rate` where it takes the unsettled port. -/
def Phacc.rateDrawsAfter {N : Nat} (c : Phacc N) (i : Instr) : Nat :=
  if takesRate i then c.rateDraws + c.pins.freqRate.draws else c.rateDraws

/-- R73: what every command leaves in PHASE and in the rate's counter. -/
theorem exec_phase (i : Instr) (w : Width) (c : Phacc w.n) :
    ∃ c' : Phacc w.n, exec i (State.mk w c) = .next (State.mk w c') ∧
      c'.phase = c.phaseAfter i ∧ c'.rateDraws = c.rateDrawsAfter i ∧ c'.inputs = c.inputs := by
  cases i
  case ratio | freq | pers | pern | rad =>
    exact ⟨_, rfl, Phacc.respondCycles_phase _ _, Phacc.respondCycles_rateDraws _ _, Phacc.respondCycles_inputs _ _⟩
  all_goals exact ⟨_, rfl, rfl, rfl, rfl⟩

/-- R77: PHASE after an edge, by its three branches. -/
def Phacc.nextPhase {N : Nat} (c : Phacc N) : BitVec N :=
  if c.pins.rst then 0 else if c.pins.cmdValid then c.phaseAfter c.presented else c.phase

/-- R77: the count of the rate's free values after an edge. -/
def Phacc.nextRateDraws {N : Nat} (c : Phacc N) : Nat :=
  if c.accept then c.rateDrawsAfter c.presented else c.rateDraws

/-- R68, R73, R77: every edge answers, and what it leaves in PHASE, in the rate's counter and in the inputs. -/
theorem step_phase (w : Width) (c : Phacc w.n) :
    ∃ c' : Phacc w.n, step (State.mk w c) = .next (State.mk w c') ∧
      c'.phase = c.nextPhase ∧ c'.rateDraws = c.nextRateDraws ∧ c'.inputs = c.inputs.tail := by
  simp only [Phacc.nextPhase, Phacc.nextRateDraws, Phacc.accept]
  obtain ⟨hr, h⟩ | ⟨hr, hv, h⟩ | ⟨hr, hv, h⟩ := step_cases w c
  · exact ⟨_, h, by simp [hr], by simp [hr], rfl⟩
  · obtain ⟨c', hexec, hphase, hdraws, hinputs⟩ := exec_phase c.presented w c.beginEdge
    rw [hexec, Result.endEdge_next] at h
    refine ⟨_, h, ?_, ?_, congrArg List.tail hinputs⟩ <;> simp only [hr, hv]
    · exact hphase
    · exact hdraws
  · exact ⟨_, h, by simp [hr, hv], by simp [hv], rfl⟩

/-- R64: PHASE after an edge that presents NEXT at the rate r. -/
theorem Phacc.nextPhase_of_next {N : Nat} {c : Phacc N} {r : BitVec N} (h : PresentsNext r c.pins) :
    c.nextPhase = c.phase + r := by
  obtain ⟨hrst, hvalid, hop, hrate⟩ := h
  simp [Phacc.nextPhase, hrst, hvalid, Phacc.presented, hop, decode, Phacc.phaseAfter, Phacc.rate_of_settled hrate]

/-- R63, R78: PHASE after a reset edge, or after an edge that presents INIT. -/
theorem Phacc.nextPhase_of_reset_or_init {N : Nat} {c : Phacc N}
    (h : c.pins.rst = true ∨ (c.pins.cmdValid = true ∧ c.pins.cmdOp = 0xA#4)) : c.nextPhase = 0 := by
  obtain hrst | ⟨hvalid, hop⟩ := h
  · simp [Phacc.nextPhase, hrst]
  · simp [Phacc.nextPhase, hvalid, Phacc.presented, hop, decode, Phacc.phaseAfter]

/-! ## A run and one more edge -/

/-- The host's runner, the last edge apart. -/
theorem run_succ_of_run (M : Host.Core) {k : Nat} {s t u : M.State} (hrun : M.run k s = .next t)
    (hstep : M.step t = .next u) : M.run (k + 1) s = .next u := by
  induction k generalizing s with
  | zero =>
    cases hrun
    exact run_succ_of_step M hstep 0
  | succ k ih =>
    cases hfirst : M.step s with
    | next s' =>
      rw [run_succ_of_step M hfirst] at hrun ⊢
      exact ih hrun
    | fault f => simp [Host.Core.run, hfirst] at hrun
    | refused q => simp [Host.Core.run, hfirst] at hrun

/-- A run of k edges, and then one edge more. -/
theorem after_succ_of_after {k : Nat} {s t u : State} (hafter : after k s = .next t) (hstep : step t = .next u) :
    after (k + 1) s = .next u :=
  run_succ_of_run Sys2Proof.core hafter hstep

/-- The pins of a block that has used up k of the inputs are the k-th entry of the list. -/
theorem Phacc.pins_of_getElem? {N k : Nat} {c : Phacc N} {l : List (Pins N)} {p : Pins N} (hin : c.inputs = l.drop k)
    (hp : l[k]? = some p) : c.pins = p := by
  rw [Phacc.pins, hin, List.headD_eq_head?_getD, List.head?_drop, hp, Option.getD_some]

/-! ## NEXT at a constant rate (R67 item 1) -/

/-- R64: PHASE in numbers after k edges that present NEXT at the rate r. -/
theorem after_nexts_toNat {w : Width} {r : BitVec w.n} (k : Nat) (c : Phacc w.n) (hk : k ≤ c.inputs.length)
    (hnext : ∀ p ∈ c.inputs.take k, PresentsNext r p) :
    ∃ c' : Phacc w.n, after k (State.mk w c) = .next (State.mk w c') ∧
      c'.phase.toNat = (c.phase.toNat + k * r.toNat) % 2 ^ w.n ∧ c'.inputs = c.inputs.drop k := by
  obtain ⟨c', hafter, hphase, hinputs⟩ := after_nexts k c hk hnext
  refine ⟨c', hafter, ?_, hinputs⟩
  rw [hphase, BitVec.toNat_add, BitVec.toNat_mul, BitVec.toNat_ofNat, Nat.mod_mul_mod, Nat.add_mod_mod]

/-- R64: as long as the sum fits N bits, no NEXT has wrapped and PHASE is the sum itself. -/
theorem after_nexts_toNat_of_lt {w : Width} {r : BitVec w.n} (k : Nat) (c : Phacc w.n) (hk : k ≤ c.inputs.length)
    (hnext : ∀ p ∈ c.inputs.take k, PresentsNext r p) (hlt : c.phase.toNat + k * r.toNat < 2 ^ w.n) :
    ∃ c' : Phacc w.n, after k (State.mk w c) = .next (State.mk w c') ∧
      c'.phase.toNat = c.phase.toNat + k * r.toNat := by
  obtain ⟨c', hafter, hphase, -⟩ := after_nexts_toNat k c hk hnext
  exact ⟨c', hafter, hphase.trans (Nat.mod_eq_of_lt hlt)⟩

/-- R64: the response of an edge that presents NEXT. -/
theorem Phacc.afterNext_rspData {N : Nat} (c : Phacc N) (r : BitVec N) :
    (c.afterNext r).rspData = (c.offset + c.phase).setWidth 64 := rfl

/-- R64: with the offset 0, an edge that presents NEXT answers the phase before it. -/
theorem Phacc.afterNext_rspData_of_offset_zero {w : Width} {c : Phacc w.n} (r : BitVec w.n)
    (hoff : c.pins.shiftOff = .settled 0) : (c.afterNext r).rspData.toNat = c.phase.toNat := by
  rw [c.afterNext_rspData, Phacc.offset_of_settled hoff, zero_add, toNat_setWidth_bus]

/-- R67 item 1: the last of k + 1 NEXT commands answers the phase after the first k. -/
theorem after_nexts_response {w : Width} {r : BitVec w.n} (k : Nat) (c : Phacc w.n) (hk : k + 1 ≤ c.inputs.length)
    (hnext : ∀ p ∈ c.inputs.take (k + 1), PresentsNext r p ∧ p.shiftOff = .settled 0) :
    ∃ c' : Phacc w.n, after (k + 1) (State.mk w c) = .next (State.mk w c') ∧
      c'.rspValid = true ∧ c'.rspErr = false ∧ c'.rspData.toNat = (c.phase.toNat + k * r.toNat) % 2 ^ w.n := by
  obtain ⟨d, hafter, hphase, hinputs⟩ := after_nexts_toNat k c (Nat.le_of_succ_le hk) fun p hp =>
    (hnext p (List.take_subset_take_left _ k.le_succ hp)).1
  have hpins : d.pins = c.inputs[k] := Phacc.pins_of_getElem? hinputs (List.getElem?_eq_getElem hk)
  have hlast : c.inputs[k] ∈ c.inputs.take (k + 1) := List.mem_take_iff_getElem.mpr ⟨k, by omega, rfl⟩
  obtain ⟨hpresents, hoff⟩ := hnext _ hlast
  rw [← hpins] at hpresents hoff
  refine ⟨d.afterNext r, after_succ_of_after hafter (step_of_next hpresents), rfl, rfl, ?_⟩
  rw [Phacc.afterNext_rspData_of_offset_zero r hoff, hphase]

/-! ## The wraps at a constant rate (R67 item 3) -/

/-- R66, R67: a sum of phase values is below the second one exactly where it wrapped. -/
theorem add_toNat_lt_iff_wraps {N : Nat} (x r : BitVec N) : (x + r).toNat < r.toNat ↔ 2 ^ N ≤ x.toNat + r.toNat := by
  have hx := x.isLt
  have hr := r.isLt
  rw [BitVec.toNat_add]
  by_cases hwrap : 2 ^ N ≤ x.toNat + r.toNat
  · rw [Nat.mod_eq_sub_mod hwrap, Nat.mod_eq_of_lt (by omega)]
    omega
  · rw [Nat.mod_eq_of_lt (by omega)]
    omega

/-- R67 item 3, in numbers: from p below r, the steps of r reach P for the first time at step floor(P / r) or at step
ceil(P / r). -/
theorem exists_first_wrap {p r P : Nat} (hp : p < r) (hr : r ≤ P) :
    ∃ k, (k + 1 = P / r ∨ k + 1 = (P + r - 1) / r) ∧ p + k * r < P ∧ P ≤ p + (k + 1) * r := by
  have hpos : 0 < r := Nat.zero_lt_of_lt hp
  obtain ⟨k, hk⟩ := Nat.exists_eq_add_of_le' (Nat.div_pos hr hpos)
  have hfloor : P / r * r ≤ P := Nat.div_mul_le_self P r
  have hnext : P < P / r * r + r := Nat.lt_div_mul_add hpos
  have hsucc (m : Nat) : (m + 1) * r = m * r + r := Nat.succ_mul m r
  by_cases hwrap : P ≤ p + P / r * r
  · rw [hk, hsucc] at hfloor
    exact ⟨k, .inl hk.symm, by omega, hk ▸ hwrap⟩
  · have hceil : (P + r - 1) / r = P / r + 1 :=
      Nat.div_eq_of_lt_le (by rw [hsucc]; omega) (by rw [hsucc, hsucc]; omega)
    exact ⟨P / r, .inr hceil.symm, by omega, by rw [hsucc]; omega⟩

/-- R66: an edge that presents ISSTART at the rate r answers whether PHASE is below r. -/
theorem step_of_isstart {w : Width} {c : Phacc w.n} {r : BitVec w.n} (h : PresentsIsstart r c.pins) :
    ∃ c' : Phacc w.n, step (State.mk w c) = .next (State.mk w c') ∧ c'.rspFlag = decide (c.phase.toNat < r.toNat) := by
  obtain ⟨hrst, hvalid, hop, hrate⟩ := h
  have hpresented : c.presented = .isstart c.pins.cmdA c.pins.cmdB := by rw [Phacc.presented, hop]; rfl
  obtain rfl : c.rate = r := Phacc.rate_of_settled hrate
  rw [step_of_accept hrst hvalid, hpresented]
  exact ⟨_, rfl, rfl⟩

/-- R66: any edge and then one that presents ISSTART at the rate r. -/
theorem after_edge_isstart {w : Width} {c : Phacc w.n} {r : BitVec w.n} {p q : Pins w.n} {rest : List (Pins w.n)}
    (hin : c.inputs = p :: q :: rest) (hq : PresentsIsstart r q) :
    ∃ c' : Phacc w.n, after 2 (State.mk w c) = .next (State.mk w c') ∧
      c'.rspFlag = decide (c.nextPhase.toNat < r.toNat) := by
  obtain ⟨d, hfirst, hphase, -, hinputs⟩ := step_phase w c
  have hpins : d.pins = q := by rw [Phacc.pins, hinputs, hin]; rfl
  obtain ⟨c', hsecond, hflag⟩ := step_of_isstart (hpins ▸ hq)
  exact ⟨c', (after_succ_of_step hfirst 1).trans (after_succ_of_step hsecond 0), hphase ▸ hflag⟩

/-! ## Two runs that differ at `shift_off` alone (R67 item 2) -/

/-- The pins of one edge in two runs, equal but for `shift_off`. -/
def SameButOffset {N : Nat} (p q : Pins N) : Prop := { p with shiftOff := q.shiftOff } = q

/-- Two blocks that the values on `shift_off` alone have kept apart: all that PHASE depends on is the same. -/
structure AgreeButOffset {N : Nat} (c d : Phacc N) : Prop where
  phase : c.phase = d.phase
  rateDraws : c.rateDraws = d.rateDraws
  inputs : List.Forall₂ SameButOffset c.inputs d.inputs

section Agree

variable {N : Nat} {c d : Phacc N}

/-- The coming pins differ at `shift_off` alone, also past the end of both lists. -/
theorem AgreeButOffset.pins (h : AgreeButOffset c d) : ∃ v, d.pins = { c.pins with shiftOff := v } := by
  obtain ⟨hnil, hnil'⟩ | ⟨p, q, l, m, hpq, -, hc, hd⟩ := (List.forall₂_iff _ _ _).mp h.inputs
  · exact ⟨_, by rw [Phacc.pins, Phacc.pins, hnil, hnil', List.headD_nil]⟩
  · exact ⟨_, by rw [Phacc.pins, Phacc.pins, hc, hd]; exact hpq.symm⟩

/-- So do the pins of all later edges. -/
theorem AgreeButOffset.tail (h : AgreeButOffset c d) : List.Forall₂ SameButOffset c.inputs.tail d.inputs.tail := by
  obtain ⟨hnil, hnil'⟩ | ⟨p, q, l, m, -, hlm, hc, hd⟩ := (List.forall₂_iff _ _ _).mp h.inputs
  · rw [hnil, hnil']
    exact .nil
  · rw [hc, hd]
    exact hlm

/-- The frequency policy returns one value to both blocks (log entry 5 where it is unsettled). -/
theorem AgreeButOffset.rate (h : AgreeButOffset c d) : c.rate = d.rate := by
  obtain ⟨v, hpins⟩ := h.pins
  rw [Phacc.rate, Phacc.rate, hpins, h.rateDraws]

/-- No command leaves the two blocks with different phases. -/
theorem AgreeButOffset.phaseAfter (h : AgreeButOffset c d) (i : Instr) : c.phaseAfter i = d.phaseAfter i := by
  cases i <;> simp only [Phacc.phaseAfter, h.phase, h.rate]

/-- R77: no edge does, as both runs take the same one of its three branches. -/
theorem AgreeButOffset.nextPhase (h : AgreeButOffset c d) : c.nextPhase = d.nextPhase := by
  obtain ⟨v, hpins⟩ := h.pins
  simp only [Phacc.nextPhase, Phacc.presented, h.phaseAfter, h.phase, hpins]

/-- The counters of the rate's free values stay together, so later readings agree too. -/
theorem AgreeButOffset.nextRateDraws (h : AgreeButOffset c d) : c.nextRateDraws = d.nextRateDraws := by
  obtain ⟨v, hpins⟩ := h.pins
  simp only [Phacc.nextRateDraws, Phacc.accept, Phacc.presented, Phacc.rateDrawsAfter, h.rateDraws, hpins]

/-- Both blocks are presented the same NEXT. -/
theorem AgreeButOffset.presentsNext {r : BitVec N} (h : AgreeButOffset c d) (hnext : PresentsNext r c.pins) :
    PresentsNext r d.pins := by
  obtain ⟨v, hpins⟩ := h.pins
  rw [hpins]
  exact hnext

end Agree

/-- R67 item 2: an edge keeps the agreement. -/
theorem step_agreeButOffset {w : Width} {c d : Phacc w.n} (h : AgreeButOffset c d) :
    ∃ c' d' : Phacc w.n, step (State.mk w c) = .next (State.mk w c') ∧ step (State.mk w d) = .next (State.mk w d') ∧
      AgreeButOffset c' d' ∧ c'.inputs = c.inputs.tail ∧ d'.inputs = d.inputs.tail := by
  obtain ⟨c', hc, hcphase, hcdraws, hcin⟩ := step_phase w c
  obtain ⟨d', hd, hdphase, hddraws, hdin⟩ := step_phase w d
  refine ⟨c', d', hc, hd, ⟨?_, ?_, ?_⟩, hcin, hdin⟩
  · rw [hcphase, hdphase, h.nextPhase]
  · rw [hcdraws, hddraws, h.nextRateDraws]
  · rw [hcin, hdin]
    exact h.tail

/-- R67 item 2: so does a run of any number of edges. -/
theorem after_agreeButOffset {w : Width} {c d : Phacc w.n} (h : AgreeButOffset c d) (k : Nat) :
    ∃ c' d' : Phacc w.n, after k (State.mk w c) = .next (State.mk w c') ∧
      after k (State.mk w d) = .next (State.mk w d') ∧
      AgreeButOffset c' d' ∧ c'.inputs = c.inputs.drop k ∧ d'.inputs = d.inputs.drop k := by
  induction k with
  | zero => exact ⟨c, d, rfl, rfl, h, rfl, rfl⟩
  | succ k ih =>
    obtain ⟨c₁, d₁, hc₁, hd₁, hagree₁, hcin₁, hdin₁⟩ := ih
    obtain ⟨c₂, d₂, hc₂, hd₂, hagree₂, hcin₂, hdin₂⟩ := step_agreeButOffset hagree₁
    refine ⟨c₂, d₂, after_succ_of_after hc₁ hc₂, after_succ_of_after hd₁ hd₂, hagree₂, ?_, ?_⟩
    · rw [hcin₂, hcin₁, List.tail_drop]
    · rw [hdin₂, hdin₁, List.tail_drop]

/-- R64, R67 item 2: the answers to one NEXT differ as the offsets do. -/
theorem AgreeButOffset.next_data_sub {w : Width} {c d c' d' : Phacc w.n} {r o₁ o₂ : BitVec w.n}
    (h : AgreeButOffset c d) (hc : step (State.mk w c) = .next (State.mk w c'))
    (hd : step (State.mk w d) = .next (State.mk w d')) (hnext : PresentsNext r c.pins)
    (ho₁ : c.pins.shiftOff = .settled o₁) (ho₂ : d.pins.shiftOff = .settled o₂) :
    c'.rspData.setWidth w.n - d'.rspData.setWidth w.n = o₁ - o₂ := by
  rw [step_of_next hnext] at hc
  rw [step_of_next (h.presentsNext hnext)] at hd
  cases hc
  cases hd
  have hread (x : BitVec w.n) : (x.setWidth 64).setWidth w.n = x := phaseOperand_setWidth w x
  rw [Phacc.afterNext_rspData, Phacc.afterNext_rspData, hread, hread, Phacc.offset_of_settled ho₁,
    Phacc.offset_of_settled ho₂, h.phase, add_sub_add_right_eq_sub]

end Sys2Proof.Machine

namespace Sys2Proof.Proofs

open Sys2Proof.Machine Sys2Proof.Claims

/-- Settles O22: PHASE after k NEXT commands, and the answer of the last of them. -/
theorem monotonicAdvance : Obligations.MonotonicAdvance := by
  intro w c r k hk hnext
  obtain ⟨c', hafter, hphase, -⟩ := after_nexts_toNat k c hk fun p hp => (hnext p hp).1
  refine ⟨c', hafter, hphase, fun hpos => ?_⟩
  obtain ⟨j, rfl⟩ := Nat.exists_eq_add_of_le' hpos
  obtain ⟨d, hafter', hresponse⟩ := after_nexts_response j c hk hnext
  cases hafter.symm.trans hafter'
  exact hresponse

/-- Settles O23: the agreement holds after every edge, and a NEXT answers its offset added to the common PHASE. -/
theorem shiftIndependence : Obligations.ShiftIndependence := by
  intro w c l m hlm k
  have hagree : AgreeButOffset { c with inputs := l } { c with inputs := m } := ⟨rfl, rfl, hlm⟩
  cases k with
  | zero => exact ⟨_, _, rfl, rfl, rfl, fun _ _ _ _ _ hpos => absurd hpos (Nat.lt_irrefl 0)⟩
  | succ k =>
    obtain ⟨c₁, d₁, hc₁, hd₁, hagree₁, hcin, hdin⟩ := after_agreeButOffset hagree k
    obtain ⟨c₂, d₂, hc₂, hd₂, hagree₂, -, -⟩ := step_agreeButOffset hagree₁
    refine ⟨c₂, d₂, after_succ_of_after hc₁ hc₂, after_succ_of_after hd₁ hd₂, hagree₂.phase, ?_⟩
    intro p q r o₁ o₂ _ hp hq hnext ho₁ ho₂
    obtain rfl : c₁.pins = p := Phacc.pins_of_getElem? hcin hp
    obtain rfl : d₁.pins = q := Phacc.pins_of_getElem? hdin hq
    exact hagree₁.next_data_sub hc₂ hd₂ hnext ho₁ ho₂

/-- Settles O24: ISSTART compares r with the PHASE that the edge before it left: a sum with r, or 0. -/
theorem cycleStartAtConstantRate : Obligations.CycleStartAtConstantRate := by
  intro w c r p q rest hr hin hq
  obtain rfl : c.pins = p := by rw [Phacc.pins, hin]; rfl
  obtain ⟨c', hafter, hflag⟩ := after_edge_isstart hin hq
  refine ⟨fun hnext => ⟨c', hafter, ?_⟩, fun hzero => ⟨c', hafter, ?_⟩⟩
  · rw [hflag, Phacc.nextPhase_of_next hnext, decide_eq_decide]
    exact add_toNat_lt_iff_wraps c.phase r
  · rw [hflag, Phacc.nextPhase_of_reset_or_init hzero]
    exact decide_eq_true hr

/-- Settles O25: before the first wrap, PHASE is the sum itself. -/
theorem wrapsAreFloorOrCeilApart : Obligations.WrapsAreFloorOrCeilApart := by
  intro w c r hbelow hlen hnext
  obtain ⟨k, hk, hlt, hwrap⟩ := exists_first_wrap hbelow r.isLt.le
  have hkceil : k ≤ (2 ^ w.n + r.toNat - 1) / r.toNat := by
    have hle : 2 ^ w.n / r.toNat ≤ (2 ^ w.n + r.toNat - 1) / r.toNat := Nat.div_le_div_right (by omega)
    omega
  have hsum (j : Nat) (hj : j ≤ k) : ∃ c' : Phacc w.n, after j (State.mk w c) = .next (State.mk w c') ∧
      c'.phase.toNat = c.phase.toNat + j * r.toNat :=
    after_nexts_toNat_of_lt j c ((hj.trans hkceil).trans hlen)
      (fun p hp => hnext p (List.take_subset_take_left _ (hj.trans hkceil) hp))
      ((Nat.add_le_add_left (Nat.mul_le_mul_right _ hj) _).trans_lt hlt)
  refine ⟨k, hk, fun j hj => ?_, ?_⟩
  · obtain ⟨c', hafter, hphase⟩ := hsum j hj.le
    have hmono : (j + 1) * r.toNat ≤ k * r.toNat := Nat.mul_le_mul_right _ hj
    rw [Nat.succ_mul] at hmono
    exact ⟨c', hafter, by omega⟩
  · obtain ⟨c', hafter, hphase⟩ := hsum k le_rfl
    rw [Nat.succ_mul] at hwrap
    exact ⟨c', hafter, by omega⟩

end Sys2Proof.Proofs
end

section
/-! PROOFS. Where a command answers the error response, where an edge answers a response at all, and where it changes
PHASE (spec/60_exceptions.md). -/

namespace Sys2Proof.Machine

open Sys2Proof.Claims

/-! ## The operands that encode no number of cycles (R69) -/

/-- R52: infinities and NaNs. -/
theorem ratioCycles_eq_none_iff (a : Bus) : ratioCycles a = none ↔ exponent64 a = 2047 := by simp [ratioCycles]

/-- R57: no sample rate. -/
theorem freqCycles_eq_none_iff (a b : Bus) : freqCycles a b = none ↔ rateHz b = 0 := by
  simp [freqCycles, sampleRate_eq_rateHz]

/-- R58: no sample rate, or no period. -/
theorem persCycles_eq_none_iff (a b : Bus) : persCycles a b = none ↔ rateHz b = 0 ∨ a.toNat = 0 := by
  simp [persCycles, sampleRate_eq_rateHz, or_iff_not_imp_left]

/-- R59: no period. -/
theorem pernCycles_eq_none_iff (a : Bus) : pernCycles a = none ↔ a.toNat = 0 := by simp [pernCycles]

/-! ## The error response (R69) -/

/-- From `c` to `c'` a command answered the error response exactly where `P` holds, and then changed nothing else. -/
structure ErrsExactlyIf {N : Nat} (P : Prop) (c c' : Phacc N) : Prop where
  err : c'.rspErr = true ↔ P
  frame : c'.rspErr = true → c' = answer c 0 false true

/-- R69: any response without error, where the case does not hold. -/
theorem errsExactlyIf_of_no_error {N : Nat} {P : Prop} {c c' : Phacc N} (hP : ¬P) (h : c'.rspErr = false) :
    ErrsExactlyIf P c c' :=
  ⟨by simp [h, hP], by simp [h]⟩

/-- R69: the shared error response, where the case holds. -/
theorem Phacc.respondErr_errsExactlyIf {N : Nat} {P : Prop} (c : Phacc N) (hP : P) : ErrsExactlyIf P c c.respondErr :=
  ⟨by simp [hP], fun _ => c.respondErr_eq_answer⟩

/-- A conversion answers the error response exactly where its operands encode no number of cycles. -/
theorem Phacc.respondCycles_errsExactlyIf {N : Nat} {P : Prop} (c : Phacc N) {x : Option Frac} (h : x = none ↔ P) :
    ErrsExactlyIf P c (c.respondCycles x) := by
  cases x with
  | none => exact c.respondErr_errsExactlyIf (h.mp rfl)
  | some q => exact errsExactlyIf_of_no_error (h.not.mp (Option.some_ne_none q)) rfl

/-- R69: every command answers, with the error response exactly in the table's cases. -/
theorem exec_errsExactlyIf (i : Instr) (w : Width) (c : Phacc w.n) :
    ∃ c' : Phacc w.n, exec i (State.mk w c) = .next (State.mk w c') ∧ ErrsExactlyIf (invalid i) c c' := by
  cases i
  case reserved0 | reservedE | reservedF => exact ⟨_, rfl, c.respondErr_errsExactlyIf trivial⟩
  case ratio a b => exact ⟨_, rfl, c.respondCycles_errsExactlyIf (ratioCycles_eq_none_iff a)⟩
  case freq a b => exact ⟨_, rfl, c.respondCycles_errsExactlyIf (freqCycles_eq_none_iff a b)⟩
  case pers a b => exact ⟨_, rfl, c.respondCycles_errsExactlyIf (persCycles_eq_none_iff a b)⟩
  case pern a b => exact ⟨_, rfl, c.respondCycles_errsExactlyIf (pernCycles_eq_none_iff a)⟩
  case int | add | sub | cmp | rad | init | next | get | isstart =>
    exact ⟨_, rfl, errsExactlyIf_of_no_error not_false rfl⟩

/-! ## Where PHASE stays as it is (R73) -/

/-- A command whose opcode is neither NEXT's nor INIT's leaves PHASE as it is. -/
theorem Phacc.phaseAfter_of_opcode_ne {N : Nat} (c : Phacc N) {i : Instr} (hnext : i.opcode ≠ 0xB#4)
    (hinit : i.opcode ≠ 0xA#4) : c.phaseAfter i = c.phase := by
  cases i
  case next => exact absurd rfl hnext
  case init => exact absurd rfl hinit
  all_goals rfl

/-- R77: so does an edge without reset that accepts neither NEXT nor INIT. -/
theorem Phacc.nextPhase_of_no_write {N : Nat} {c : Phacc N} (hrst : c.pins.rst = false)
    (hop : c.accept = true → c.pins.cmdOp ≠ 0xB#4 ∧ c.pins.cmdOp ≠ 0xA#4) : c.nextPhase = c.phase := by
  cases hvalid : c.pins.cmdValid with
  | false => simp [Phacc.nextPhase, hrst, hvalid]
  | true =>
    obtain ⟨hnext, hinit⟩ := hop (by simp [Phacc.accept, hrst, hvalid])
    have hopcode : c.presented.opcode = c.pins.cmdOp := decode_opcode _ _ _
    simpa [Phacc.nextPhase, hrst, hvalid] using c.phaseAfter_of_opcode_ne (hopcode ▸ hnext) (hopcode ▸ hinit)

end Sys2Proof.Machine

namespace Sys2Proof.Proofs

open Sys2Proof.Machine

/-- Settles O28: each command's error condition is its row of R69's table. -/
theorem errorResponseInExactlyTheseCases : Obligations.ErrorResponseInExactlyTheseCases := by
  intro i w c
  obtain ⟨c', hexec, herr, hframe⟩ := exec_errsExactlyIf i w c
  exact ⟨c', hexec, herr, hframe⟩

/-- Settles O40: a reset and an idle edge clear RSP_VALID, and every command answers with it set. -/
theorem everyEdgeCompletes : Obligations.EveryEdgeCompletes := by
  intro w c
  rw [Phacc.accept]
  obtain ⟨hrst, h⟩ | ⟨hrst, hvalid, h⟩ | ⟨hrst, hvalid, h⟩ := step_cases w c
  · exact ⟨_, h, by simp [hrst], rfl⟩
  · obtain ⟨c', hexec, hresponse, hinputs⟩ := exec_completes c.presented w c.beginEdge
    rw [hexec, Result.endEdge_next] at h
    exact ⟨_, h, by simp [hrst, hvalid, hresponse], congrArg List.tail hinputs⟩
  · exact ⟨_, h, by simp [hvalid], rfl⟩

/-- Settles O44: an edge with neither cause keeps PHASE. -/
theorem phaseChangesOnlyOnNextInitReset : Obligations.PhaseChangesOnlyOnNextInitReset := by
  intro w c c' hstep
  obtain ⟨d, hd, hphase, -, -⟩ := step_phase w c
  cases hstep.symm.trans hd
  contrapose!
  rintro ⟨hrst, hop⟩
  rw [hphase, Phacc.nextPhase_of_no_write (Bool.eq_false_iff.mpr hrst) hop]

end Sys2Proof.Proofs
end

section
/-! PROOFS. One edge in reset or with a command, runs of idle edges, and the observation of a run
(spec/70_reset_and_hazards.md). -/

namespace Sys2Proof.Machine

open Sys2Proof.Claims Sys2Proof.Safety

/-! ## The coming pins and the list of inputs (log entry 3) -/

/-- Either the list of inputs is used up and the host is idle, or the coming pins are its head. -/
theorem Phacc.inputs_cases {N : Nat} (c : Phacc N) :
    (c.inputs = [] ∧ c.pins = Pins.idle N) ∨ c.inputs = c.pins :: c.inputs.tail := by
  rw [Phacc.pins]
  cases c.inputs with
  | nil => exact .inl ⟨rfl, rfl⟩
  | cons p rest => exact .inr rfl

/-- What holds of the inputs of the next k + 1 edges and of an idle host holds of the coming pins, and of the inputs of
the k edges after them. -/
theorem Phacc.pins_and_tail_of_forall_take {N k : Nat} {c : Phacc N} {P : Pins N → Prop} (hidle : P (Pins.idle N))
    (h : ∀ p ∈ c.inputs.take (k + 1), P p) : P c.pins ∧ ∀ p ∈ c.inputs.tail.take k, P p := by
  obtain ⟨hnil, hpins⟩ | hcons := c.inputs_cases
  · exact ⟨hpins ▸ hidle, by simp [hnil]⟩
  · rwa [hcons, List.take_succ_cons, List.forall_mem_cons] at h

/-! ## Where no command is accepted (R22) -/

theorem Phacc.accept_eq_false_iff {N : Nat} (c : Phacc N) :
    c.accept = false ↔ c.pins.rst = true ∨ c.pins.cmdValid = false := by
  rw [Phacc.accept, Bool.and_eq_false_iff, Bool.not_eq_false']

/-- R22: where no command is accepted, neither policy is invoked. -/
theorem Phacc.takes_of_not_accept {N : Nat} {c : Phacc N} (hacc : c.accept = false) :
    c.freqTake = false ∧ c.shiftTake = false := by
  simp [Phacc.freqTake, Phacc.shiftTake, hacc]

/-! ## Idle edges (R80) -/

/-- R77, R80: k + 1 idle edges do to the registers what one does, and use up k + 1 inputs. -/
theorem after_idle_edges {w : Width} (k : Nat) (c : Phacc w.n)
    (hidle : ∀ p ∈ c.inputs.take (k + 1), p.rst = false ∧ p.cmdValid = false) :
    after (k + 1) (State.mk w c) =
      .next (State.mk w { c.beginEdge.idleRegs with inputs := c.inputs.drop (k + 1) }) := by
  induction k generalizing c with
  | zero =>
    obtain ⟨⟨hrst, hvalid⟩, -⟩ := Phacc.pins_and_tail_of_forall_take ⟨rfl, rfl⟩ hidle
    rw [after_succ_of_step (step_of_idle hrst hvalid), List.drop_one]
    rfl
  | succ k ih =>
    obtain ⟨⟨hrst, hvalid⟩, hrest⟩ := Phacc.pins_and_tail_of_forall_take ⟨rfl, rfl⟩ hidle
    rw [after_succ_of_step (step_of_idle hrst hvalid), ih c.beginEdge.idleRegs.endEdge hrest, Phacc.endEdge_inputs, List.drop_tail]
    rfl

/-! ## The observation of an edge (R87) -/

/-- R21, R22, R77: every edge answers, and what it leaves for the observation. -/
theorem step_observed (w : Width) (c : Phacc w.n) :
    ∃ c' : Phacc w.n, step (State.mk w c) = .next (State.mk w c') ∧ c'.rspValid = c.accept ∧
      c'.freqTaken = c.freqTake ∧ c'.shiftTaken = c.shiftTake ∧ c'.inputs = c.inputs.tail := by
  obtain ⟨c', hstep, hvalid, hinputs⟩ := Proofs.everyEdgeCompletes w c
  obtain ⟨d, hstep', hfreq, hshift⟩ := Proofs.readingsMatchTheStrobes w c
  cases hstep.symm.trans hstep'
  exact ⟨c', hstep, hvalid, hfreq, hshift, hinputs⟩

/-- The observation of an edge that answers, and of the rest of the run. -/
theorem observe_succ_of_step {s t : State} (h : step s = .next t) (n k : Nat) :
    observe (n + 1) k s =
      ⟨responseOf t ++ (observe n (k + 1) t).responses, invocationOf k t ++ (observe n (k + 1) t).invocations,
        (observe n (k + 1) t).phase⟩ := by
  rw [observe, h]

theorem responseOf_length (s : State) : (responseOf s).length = s.chip.rspValid.toNat := by
  rw [responseOf]
  cases s.chip.rspValid <;> rfl

/-! ## The responses of a run (R87) -/

/-- R22: the pins present a command that their edge accepts. -/
def Pins.accepts {N : Nat} (p : Pins N) : Bool := !p.rst && p.cmdValid

theorem Phacc.accept_eq_accepts {N : Nat} (c : Phacc N) : c.accept = c.pins.accepts := rfl

/-- The commands that n + 1 edges accept: that of the coming edge, and those of the n edges after it. -/
theorem Phacc.countP_accepts_take_succ {N : Nat} (c : Phacc N) (n : Nat) :
    (c.inputs.take (n + 1)).countP Pins.accepts = c.accept.toNat + (c.inputs.tail.take n).countP Pins.accepts := by
  rw [c.accept_eq_accepts]
  obtain ⟨hnil, hpins⟩ | hcons := c.inputs_cases
  · simp [hnil, hpins, Pins.accepts, Pins.idle]
  · rw [hcons, List.take_succ_cons, List.countP_cons, List.tail_cons, add_comm]
    cases c.pins.accepts <;> rfl

/-- R87: a run observes as many responses as it accepts commands. -/
theorem observe_responses_length {w : Width} (n k : Nat) (c : Phacc w.n) :
    (observe n k (State.mk w c)).responses.length = (c.inputs.take n).countP Pins.accepts := by
  induction n generalizing k c with
  | zero => rfl
  | succ n ih =>
    obtain ⟨c', hstep, hvalid, -, -, hinputs⟩ := step_observed w c
    rw [observe_succ_of_step hstep, List.length_append, responseOf_length, hvalid, ih, hinputs,
      c.countP_accepts_take_succ]

/-! ## The invocations of a run (R24, R87) -/

/-- The invocations of n + 1 edges: that of the coming edge, and those of the n edges after it. -/
theorem Phacc.invocationsOf_take_succ {N : Nat} (c : Phacc N) (n k : Nat) :
    invocationsOf k (c.inputs.take (n + 1)) =
      invocationsOf k [c.pins] ++ invocationsOf (k + 1) (c.inputs.tail.take n) := by
  obtain ⟨hnil, hpins⟩ | hcons := c.inputs_cases
  · simp [hnil, hpins, invocationsOf, Pins.idle]
  · rw [hcons, List.take_succ_cons, invocationsOf, invocationsOf, invocationsOf, List.append_nil, List.tail_cons]

/-- R22, R24: the table of invocations, read off the two strobes of the edge. -/
theorem Phacc.invocationsOf_pins {N : Nat} (c : Phacc N) (k : Nat) :
    invocationsOf k [c.pins] = if c.freqTake || c.shiftTake then [⟨k, c.freqTake, c.shiftTake⟩] else [] := by
  rw [invocationsOf, invocationsOf, List.append_nil]
  cases hacc : c.accept with
  | false =>
    obtain ⟨hfreq, hshift⟩ := Phacc.takes_of_not_accept hacc
    rw [if_pos (c.accept_eq_false_iff.mp hacc), hfreq, hshift]
    rfl
  | true =>
    have hcmd : ¬(c.pins.rst = true ∨ c.pins.cmdValid = false) := by simp [← c.accept_eq_false_iff, hacc]
    rw [if_neg hcmd, Phacc.freqTake, Phacc.shiftTake, hacc]
    generalize c.pins.cmdOp = op
    by_cases hnext : op = 0xB#4
    · subst hnext; rfl
    by_cases hget : op = 0xC#4
    · subst hget; rfl
    by_cases hisstart : op = 0xD#4
    · subst hisstart; rfl
    simp [hnext, hget, hisstart]

/-- R87: an edge's recorded invocation is the one that the table gives the command on its pins. -/
theorem invocationOf_of_strobes {w : Width} {c c' : Phacc w.n} (k : Nat) (hfreq : c'.freqTaken = c.freqTake)
    (hshift : c'.shiftTaken = c.shiftTake) : invocationOf k (State.mk w c') = invocationsOf k [c.pins] := by
  rw [c.invocationsOf_pins, invocationOf, hfreq, hshift]

/-- R87: a run observes the invocations of the commands that it accepts. -/
theorem observe_invocations {w : Width} (n k : Nat) (c : Phacc w.n) :
    (observe n k (State.mk w c)).invocations = invocationsOf k (c.inputs.take n) := by
  induction n generalizing k c with
  | zero => rfl
  | succ n ih =>
    obtain ⟨c', hstep, -, hfreq, hshift, hinputs⟩ := step_observed w c
    rw [observe_succ_of_step hstep, c.invocationsOf_take_succ, invocationOf_of_strobes k hfreq hshift, ih, hinputs]

/-! ## PHASE after a run (R87) -/

/-- R68, R87: every run answers, and its observation ends with the PHASE that it leaves. -/
theorem observe_phase {w : Width} (n k : Nat) (c : Phacc w.n) :
    ∃ c' : Phacc w.n, after n (State.mk w c) = .next (State.mk w c') ∧
      (observe n k (State.mk w c)).phase = c'.phase.toNat := by
  induction n generalizing k c with
  | zero => exact ⟨c, rfl, rfl⟩
  | succ n ih =>
    obtain ⟨d, hstep, -⟩ := step_observed w c
    obtain ⟨c', hafter, hphase⟩ := ih (k + 1) d
    rw [after_succ_of_step hstep, observe_succ_of_step hstep]
    exact ⟨c', hafter, hphase⟩

end Sys2Proof.Machine

namespace Sys2Proof.Proofs

open Sys2Proof.Machine

/-- Settles O38: k idle edges leave the block that one leaves, but for the inputs. -/
theorem idleCyclesHoldTheResponse : Obligations.IdleCyclesHoldTheResponse := by
  intro w c k hidle hpos
  obtain ⟨j, rfl⟩ := Nat.exists_eq_add_of_le' hpos
  exact ⟨_, after_idle_edges j c hidle, rfl, rfl, rfl, rfl, rfl, rfl⟩

/-- Settles O48, by induction on the number of edges: RSP_VALID is 1 after exactly those that accept. -/
theorem oneResponsePerAcceptedCommand : Obligations.OneResponsePerAcceptedCommand := by
  intro w c n k
  rw [observe_responses_length, List.countP_eq_length_filter]
  rfl

/-- Settles O51, by induction on the number of edges: the strobe records of each are the row of R24's table. -/
theorem observationListsInvocationsAndPhase : Obligations.ObservationListsInvocationsAndPhase :=
  fun _ c n k => ⟨observe_invocations n k c, observe_phase n k c⟩

/-- Settles O35: the accept branch of the edge, where every command answers a next state. -/
theorem stepRunsThePresentedCommand : Obligations.StepRunsThePresentedCommand := by
  intro w c i hrst hvalid hi
  obtain rfl : c.presented = i := hi
  obtain ⟨c', hexec, -, -⟩ := exec_completes c.presented w c.beginEdge
  refine ⟨c', hexec, ?_⟩
  rw [step_of_accept hrst hvalid, hexec, Result.endEdge_next]
  rfl

/-- Settles O36: the reset branch of the edge, and the outputs that depend on `rst`. -/
theorem resetEdgeClearsEveryRegister : Obligations.ResetEdgeClearsEveryRegister := by
  intro w c hrst
  have hready : c.cmdReady = false := by simp [Phacc.cmdReady, hrst]
  exact ⟨⟨hready, Phacc.takes_of_not_accept (c.accept_eq_false_iff.mpr (.inl hrst))⟩, step_of_reset hrst⟩

end Sys2Proof.Proofs
end
